-- ==== Sys2Proof/Word.lean ====
section
/-! DEFINITION. The two bit-vector types of the block: a byte (00_scope.md R6) and a command word (30_encoding.md R70). -/

namespace Sys2Proof

/-- A byte: 8 bits, an unsigned integer 0 to 255 (R6). -/
abbrev Byte := BitVec 8

/-- A command word `CW`: one 16-bit word, one length, one format (R70). -/
abbrev CommandWord := BitVec 16

end Sys2Proof
end

