-- ==== Sys2Proof/Config.lean ====
section
/-! DEFINITION. The implementation parameters of 00_scope.md R5. PKT_CAP and CKD_FORWARD_NOTIFICATIONS are
fixed per instance when it is created (10_state.md R32), so they stand in the instance's record; here are only the
values that an instance the host has not created explicitly has. -/

namespace Sys2Proof.Config

/-- `CRC16_INIT`: the CRC16 register after reset (R5, R34). -/
def crc16Init : BitVec 16 := 0xFFFF#16

/-- `CRC32_INIT`: the CRC32 register after reset (R5, R34). -/
def crc32Init : BitVec 32 := 0xFFFFFFFF#32

/-- `CRC16_XOROUT`: the value FIN XORs into the register (R5, R106; 90_conflicts.md C1). -/
def crc16Xorout : BitVec 16 := 0xFFFF#16

/-- `CRC32_XOROUT` (R5, R110). -/
def crc32Xorout : BitVec 32 := 0xFFFFFFFF#32

/-- `CRC16_POLY`, the reflected generator polynomial (R5, R101, R114). The spec fits it to the source's one vector
(92 D7): DEDUCED, log 12. -/
def crc16Poly : BitVec 16 := 0x8408#16

/-- `CRC32_POLY`, the reflected polynomial of zlib's CRC-32 (R5, R102). The spec takes it from general knowledge
(92 D8): UNVERIFIED, log 12. -/
def crc32Poly : BitVec 32 := 0xEDB88320#32

/-- `CRC16_RESIDUE`: the raw register value that makes VFY true (R5, R103). -/
def crc16Residue : BitVec 16 := 0xF0B8#16

/-- `CRC32_RESIDUE` (R5, R103). -/
def crc32Residue : BitVec 32 := 0xDEBB20E3#32

/-- `BLK_SIZE`: size of the decoder's block buffer (R5, R23). -/
def blkSize : Nat := 256

/-- `EBUF_SIZE`: size of the encoder's buffer (R5, R26). -/
def ebufSize : Nat := 256

/-- `MAX_PAYLOAD`: most payload bytes in one COBS block (R5, R78). -/
def maxPayload : Nat := 254

/-- The cursor sentinel "no block active" (R24, R35), which is also the length prefix of a full block (R80). -/
def sentinel : Nat := 255

/-- The encoder index at which a block is full: `MAX_PAYLOAD + 1` (R161). -/
def fullIndex : Nat := 255

/-- `PKT_CAP` of a decoder instance whose capacity the host has not given. The spec leaves `PKT_CAP` OPEN (R5, 92 D19):
DESIGN CHOICE, unsafe, log 4. No statement rests on this value. -/
def defaultPktCap : Nat := 1024

/-- `CKD_FORWARD_NOTIFICATIONS`: the value this hardware takes is false (R5, R183). -/
def ckdForwardNotifications : Bool := false

/-- What a buffer byte reads as that nothing has written. The spec leaves it unspecified (R37, U3) and says that it reaches no
event (R58): DESIGN CHOICE, log 6. -/
def unwrittenByte : Byte := 0x00#8

end Sys2Proof.Config
end

