-- ==== Sys2Proof/Syntax.lean ====
section
/-! DEFINITION. The command set CCF-CMD version 1: one constructor per row of spec/opcode_table.json (30_encoding.md R72),
and the reasons for which a command word spells no command (R74). -/

namespace Sys2Proof

/-- The six unit kinds, in the order of their unit numbers 0 to 5 (R2, R71). -/
inductive UnitKind where
  | crc16
  | crc32
  | cobsd
  | cobse
  | ckd
  | cke
  deriving DecidableEq, Repr

/-- The 16 commands (R72). An operand is the byte `CW[7:0]` (R73); every byte value is legal in every one of them. -/
inductive Instr where
  /-- `CRC16.RST` (R104). -/
  | crc16Rst
  /-- `CRC16.UPD b` (R105). -/
  | crc16Upd (b : Byte)
  /-- `CRC16.FIN f` (R106). -/
  | crc16Fin (f : Byte)
  /-- `CRC16.VFY` (R107). -/
  | crc16Vfy
  /-- `CRC32.RST` (R108). -/
  | crc32Rst
  /-- `CRC32.UPD b` (R109). -/
  | crc32Upd (b : Byte)
  /-- `CRC32.FIN f` (R110). -/
  | crc32Fin (f : Byte)
  /-- `CRC32.VFY` (R111). -/
  | crc32Vfy
  /-- `COBSD.RST` (R130). -/
  | cobsdRst
  /-- `COBSD.BYTE b` (R131). -/
  | cobsdByte (b : Byte)
  /-- `COBSE.DATA b` (R161). -/
  | cobseData (b : Byte)
  /-- `COBSE.DLM` (R162). -/
  | cobseDlm
  /-- `CKD.RST` (R180). -/
  | ckdRst
  /-- `CKD.BYTE b` (R181). -/
  | ckdByte (b : Byte)
  /-- `CKE.DATA b` (R185). -/
  | ckeData (b : Byte)
  /-- `CKE.DLM` (R186). -/
  | ckeDlm
  deriving DecidableEq, Repr

/-- Why a command word spells no command: the three cases of R74, in its order. -/
inductive Reject where
  /-- `UNIT` is 6 to 15. -/
  | reservedUnit
  /-- `OP` is not listed for its `UNIT` in R72. -/
  | reservedOperation
  /-- `DATA` is non-zero in a command whose `DATA` "must be 0". -/
  | dataNotZero
  deriving DecidableEq, Repr

end Sys2Proof
end

