-- ==== Sys2Proof/Machine/State.lean ====
section
/-! DEFINITION. The machine's state as plain data: everything 10_state.md R20 lists, for every instance of every unit, the
per-instance parameters of 00_scope.md R5, and the model's own input and output sides (log 1, 2, 3). -/

namespace Sys2Proof.Machine

/-- The five errors with their recorded information (30_encoding.md R76, 60_exceptions.md R220). -/
inductive Error where
  | invalidFormat
  | unexpectedZero
  | overflow (totalLength : Nat)
  | tooSmallForCrc16 (totalLength : Nat)
  | crcMismatch
  deriving DecidableEq, Repr

/-- The events of 30_encoding.md R75, with the arguments carried by value (92 D17). `VALUE`'s argument has 16 or 32
bits, so it has a constructor for each width (log 15). -/
inductive Event where
  | value16 (v : BitVec 16)
  | value32 (v : BitVec 32)
  | bytes (s : List Byte)
  | bool (t : Bool)
  | chunk (s : List Byte)
  | block (c : Nat)
  | packetEnd (total : Nat)
  | packet (s : List Byte)
  | err (e : Error)
  deriving DecidableEq, Repr

/-- A byte buffer: (index, byte) pairs in the canonical form of `Memory.wf` (20_memory.md R50). -/
abbrev Memory := List Host.Cell

/-- A bank: the units of one kind by the host's instance number; a number not listed is an instance in the reset state
(00_scope.md R10, log 3). -/
abbrev Bank (α : Type) := List (Nat × α)

/-- The state of a COBS decoder (10_state.md R23, R24), with its `PKT_CAP` (`cap`, R5). -/
structure Decoder where
  blk : Memory
  pkt : Memory
  blockStart : Nat
  blockIndex : Nat
  blockLength : Nat
  packetIndex : Nat
  totalLength : Nat
  cap : Nat
  deriving DecidableEq, Repr

/-- The state of a COBS encoder (10_state.md R26). -/
structure Encoder where
  buf : Memory
  index : Nat
  deriving DecidableEq, Repr

/-- Unit 0: the raw CRC16 register (R21) and the events emitted so far (log 2). -/
structure Crc16Unit where
  reg : BitVec 16
  out : List Event
  deriving DecidableEq, Repr

/-- Unit 1: the raw CRC32 register (R22). -/
structure Crc32Unit where
  reg : BitVec 32
  out : List Event
  deriving DecidableEq, Repr

/-- Unit 2: a COBS decoder. -/
structure CobsdUnit where
  dec : Decoder
  out : List Event
  deriving DecidableEq, Repr

/-- Unit 3: a COBS encoder. -/
structure CobseUnit where
  enc : Encoder
  out : List Event
  deriving DecidableEq, Repr

/-- Unit 4: the checked decoder, a private COBS decoder (R28) and its parameter `CKD_FORWARD_NOTIFICATIONS` (`forward`, R183). -/
structure CkdUnit where
  dec : Decoder
  forward : Bool
  out : List Event
  deriving DecidableEq, Repr

/-- Unit 5: the checked encoder, a private COBS encoder, the running CRC16 and the byte counter (R27). -/
structure CkeUnit where
  enc : Encoder
  crc : BitVec 16
  count : Nat
  out : List Event
  deriving DecidableEq, Repr

/-- What the host can do to the block (00_scope.md R11; 70_reset_and_hazards.md R250, R253). -/
inductive HostInput where
  /-- A command word presented at the command port of instance `inst` of the unit kind it names (R70). -/
  | command (inst : Nat) (word : CommandWord)
  /-- The hardware reset (R250). -/
  | hardwareReset
  /-- A new COBSD instance under the number `inst`, with its `PKT_CAP` (R253; log 4). -/
  | createCobsd (inst cap : Nat)
  /-- A new CKD instance under the number `inst`, with its two parameters (R253, R183; log 4). -/
  | createCkd (inst cap : Nat) (forward : Bool)
  deriving DecidableEq, Repr

/-- The whole machine: the six banks (R20), the instance the current command is presented at, and the host's inputs not yet
presented, next first. -/
structure State where
  crc16 : Bank Crc16Unit
  crc32 : Bank Crc32Unit
  cobsd : Bank CobsdUnit
  cobse : Bank CobseUnit
  ckd : Bank CkdUnit
  cke : Bank CkeUnit
  port : Nat
  stream : List HostInput
  deriving DecidableEq, Repr

/-- No fault exists: "No behaviour of the block is treated as `fault` or `stuck`" (93, part 1), "A model's `fault` outcome
is never used by a legal command" (R12). So the type has no constructor. -/
inductive Fault where
  deriving DecidableEq, Repr

/-- Why a step has no next state. -/
inductive Refusal where
  /-- Raised by an arm of `exec` for an instruction that has no meaning yet; no arm of this model raises it. Safe. -/
  | notModelled (mnemonic : String)
  /-- Raised by `step` when the presented word spells no command (R74, R231); it changes no state and emits no event. Safe: the
  run stops where the block would take the host's next command (log 9). -/
  | illegalCommand (why : Reject)
  deriving DecidableEq, Repr

/-- The machine right after hardware reset (R250): no number is listed in a bank, so every instance of every unit is in the
reset state of its kind (`Crc16Unit.reset` and so on, in Ops: R34 to R38); the host has presented nothing (log 1, 16). -/
def State.reset : State where
  crc16 := []
  crc32 := []
  cobsd := []
  cobse := []
  ckd := []
  cke := []
  port := 0
  stream := []

end Sys2Proof.Machine
end

