-- ==== Sys2Proof/Machine/Sparse.lean ====
section
/-! DEFINITION. Sparse data by number: a list of (number, value) pairs with a default for what is not listed, in one
canonical form. The byte buffers (20_memory.md R50) and the banks of instances (00_scope.md R10) are both held so. -/

namespace Sys2Proof.Machine

/-- The value at `n`; an unlisted number reads as `d`. -/
def Sparse.get {α : Type} (d : α) (l : List (Nat × α)) (n : Nat) : α :=
  match l with
  | [] => d
  | e :: rest => if e.1 = n then e.2 else Sparse.get d rest n

/-- Everything but the entry of `n`. -/
def Sparse.erase {α : Type} (l : List (Nat × α)) (n : Nat) : List (Nat × α) :=
  match l with
  | [] => []
  | e :: rest => if e.1 = n then Sparse.erase rest n else e :: Sparse.erase rest n

/-- The entry `(n, v)` put before the first greater number. -/
def Sparse.insert {α : Type} (l : List (Nat × α)) (n : Nat) (v : α) : List (Nat × α) :=
  match l with
  | [] => [(n, v)]
  | e :: rest => if n < e.1 then (n, v) :: e :: rest else e :: Sparse.insert rest n v

/-- `n` now holds `v`; holding the default means not being listed, so that equal contents are equal data. -/
def Sparse.set {α : Type} [DecidableEq α] (d : α) (l : List (Nat × α)) (n : Nat) (v : α) : List (Nat × α) :=
  if v = d then Sparse.erase l n else Sparse.insert (Sparse.erase l n) n v

/-- Every value changed by `f`, which must keep the default (so that the values not listed are changed too). A value that
becomes the default is listed no more. -/
def Sparse.map {α : Type} [DecidableEq α] (d : α) (f : α → α) (l : List (Nat × α)) : List (Nat × α) :=
  match l with
  | [] => []
  | e :: rest =>
    if f e.2 = d then Sparse.erase (Sparse.map d f rest) e.1 else (e.1, f e.2) :: Sparse.map d f rest

/-- Every number in the list is greater than `n`. -/
def Sparse.above {α : Type} (n : Nat) (l : List (Nat × α)) : Bool :=
  match l with
  | [] => true
  | e :: rest => n < e.1 && Sparse.above n rest

/-- The canonical form: numbers strictly rising, and no entry equal to what an unlisted number reads as. -/
def Sparse.canonical {α : Type} [DecidableEq α] (d : α) (l : List (Nat × α)) : Bool :=
  match l with
  | [] => true
  | e :: rest => e.2 != d && Sparse.above e.1 rest && Sparse.canonical d rest

/-- `B[i]` (00_scope.md R7). What nothing has written reads as `Config.unwrittenByte` (R37, R58; log 6). -/
def Memory.read (m : Memory) (i : Nat) : Byte := Sparse.get Config.unwrittenByte m i

/-- `B[i] <- v` (00_scope.md R7). -/
def Memory.write (m : Memory) (i : Nat) (v : Byte) : Memory := Sparse.set Config.unwrittenByte m i v

/-- The canonical form of a buffer. -/
def Memory.wf (m : Memory) : Bool := Sparse.canonical Config.unwrittenByte m

/-- The `n` bytes `B[a..a+n)` in rising index order (00_scope.md R7). -/
def Memory.slice (m : Memory) (a n : Nat) : List Byte :=
  match n with
  | 0 => []
  | k + 1 => m.read a :: Memory.slice m (a + 1) k

/-- `dst[j + i] <- src[a + i]` for `i` from 0 to `n - 1`, byte by byte in rising index order (20_memory.md R55,
41_cobs_decoder.md R135); source and destination are different buffers. -/
def Memory.copy (src : Memory) (a : Nat) (dst : Memory) (j n : Nat) : Memory :=
  match n with
  | 0 => dst
  | k + 1 => Memory.copy src (a + 1) (dst.write j (src.read a)) (j + 1) k

end Sys2Proof.Machine
end

