-- ==== Sys2Proof/Machine/Flags.lean ====
section
/-! DEFINITION. The block stores no flag (10_state.md R31). These are the predicates R31 says are computed from state, and
the derived quantities of R25. -/

namespace Sys2Proof.Machine

/-- `atControl(d)`: the next byte is a control byte or the delimiter (R25). -/
def Decoder.atControl (d : Decoder) : Bool := d.blockIndex == d.blockLength

/-- `inBlock(d)`: the next byte must be a literal (R25). -/
def Decoder.inBlock (d : Decoder) : Bool := d.blockIndex < d.blockLength

/-- `pending(d)`: bytes in `blk` not yet copied to `pkt` (R25). -/
def Decoder.pending (d : Decoder) : Nat := d.blockIndex - d.blockStart

/-- `remaining(d)`: literals still expected (R25). -/
def Decoder.remaining (d : Decoder) : Nat := d.blockLength - d.blockIndex

/-- "no pending block": `index = 0` (R26, R31). -/
def Encoder.noPending (e : Encoder) : Bool := e.index == 0

/-- `verifyOk` of a CRC16 register (R31, R107). -/
def verifyOk16 (reg : BitVec 16) : Bool := reg == Config.crc16Residue

/-- `verifyOk` of a CRC32 register (R31, R111). -/
def verifyOk32 (reg : BitVec 32) : Bool := reg == Config.crc32Residue

end Sys2Proof.Machine
end

