-- ==== Sys2Proof/Machine/Operands.lean ====
section
/-! DEFINITION. The operand forms (30_encoding.md R73) and the byte forms of multi-byte results (20_memory.md R52). -/

namespace Sys2Proof.Machine

/-- The output format of FIN (R73). -/
inductive Format where
  /-- `NUM`: "returns the residue as an unsigned integer by default". -/
  | num
  /-- `SEQ`: "an ordered little-endian byte sequence". -/
  | seq
  /-- "any other format argument". -/
  | other
  deriving DecidableEq, Repr

/-- The format the selector `f = CW[7:0]` names: 0 is NUM, 1 is SEQ, 2 to 255 are "any other" (R73, 92 D12). -/
def formatOf (f : Byte) : Format :=
  if f = 0 then .num else if f = 1 then .seq else .other

/-- The stream or payload byte as a length prefix or count: the unsigned number 0 to 255 (R73). -/
def byteValue (b : Byte) : Nat := b.toNat

/-- The length prefix of a block whose next free index is `index`: `1 +` its payload bytes, 1 to 255 (R78, R160). -/
def lengthByte (index : Nat) : Byte := BitVec.ofNat 8 index

/-- The byte `v[8k+7 : 8k]` of a value. -/
def byteOf {w : Nat} (v : BitVec w) (k : Nat) : Byte := v.extractLsb' (8 * k) 8

/-- `v[7:0], v[15:8]` (R52). -/
def leBytes16 (v : BitVec 16) : List Byte := [byteOf v 0, byteOf v 1]

/-- `v[7:0], v[15:8], v[23:16], v[31:24]` (R52). -/
def leBytes32 (v : BitVec 32) : List Byte := [byteOf v 0, byteOf v 1, byteOf v 2, byteOf v 3]

end Sys2Proof.Machine
end

