-- ==== Sys2Proof/Machine/Ops.lean ====
section
/-! DEFINITION. The named operations over the registers, buffers and banks: the CRC byte step, raising an error, resetting a
unit, reading and writing one instance, the hardware reset, and creating an instance. -/

namespace Sys2Proof.Machine

/-! ## The CRC byte step (40_crc_accumulator.md R100) -/

/-- One of the eight shifts of `CrcStep_W`: right by one, with `POLY` XORed in when the bit shifted out is 1 (R100). -/
def crcShift {w : Nat} (poly r : BitVec w) : BitVec w :=
  if r.getLsbD 0 then (r >>> 1) ^^^ poly else r >>> 1

/-- `n` shifts. -/
def crcShifts {w : Nat} (poly : BitVec w) (n : Nat) (r : BitVec w) : BitVec w :=
  match n with
  | 0 => r
  | k + 1 => crcShifts poly k (crcShift poly r)

/-- `CrcStep_W(reg, b, POLY)`: the byte goes into bits 7..0 of the register, then eight shifts (R100). -/
def crcStep {w : Nat} (poly reg : BitVec w) (b : Byte) : BitVec w :=
  crcShifts poly 8 (reg ^^^ b.setWidth w)

/-- The register after a byte sequence: one step per byte, in order (R9, R113). -/
def crcFeed {w : Nat} (poly reg : BitVec w) (s : List Byte) : BitVec w :=
  match s with
  | [] => reg
  | b :: rest => crcFeed poly (crcStep poly reg b) rest

/-- The FIN value of a CRC16 register (R106; 90_conflicts.md C1). -/
def finValue16 (reg : BitVec 16) : BitVec 16 := reg ^^^ Config.crc16Xorout

/-- The FIN value of a CRC32 register (R110). -/
def finValue32 (reg : BitVec 32) : BitVec 32 := reg ^^^ Config.crc32Xorout

/-! ## Errors (60_exceptions.md R229, R230) -/

/-- Raising an error, the block's only exception entry: the `ERR` event is appended to the command's output list, the state
becomes the one the rule states, and the command ends normally (R229). Nothing is saved, no mode or mask changes and no
handler is entered, so there is nothing to return from: "There is no return instruction" (R230). -/
def raise {σ : Type} (e : Error) (after : σ) : σ × List Event := (after, [.err e])

/-- FIN's output, by format: the value, its little-endian bytes, or the error (R106, R110). The unit `u` is not written in
any of the three cases. -/
def finish {σ : Type} (f : Byte) (value : Event) (seq : List Byte) (u : σ) : σ × List Event :=
  match formatOf f with
  | .num => (u, [value])
  | .seq => (u, [.bytes seq])
  | .other => raise .invalidFormat u

/-! ## Reset values (10_state.md R34 to R38) -/

/-- `Reset_COBSD(d)`: exactly these five writes; the buffers and the capacity are not written (R35, R130). -/
def Decoder.resetCursors (d : Decoder) : Decoder :=
  { d with
    blockStart := Config.sentinel
    blockIndex := Config.sentinel
    blockLength := Config.sentinel
    packetIndex := 0
    totalLength := 0 }

/-- `Reset_COBSE(e)` (R36). -/
def Encoder.resetIndex (e : Encoder) : Encoder := { e with index := 0 }

/-- A decoder of the given capacity after hardware reset, nothing written in its buffers (R35, R37). -/
def Decoder.fresh (cap : Nat) : Decoder :=
  Decoder.resetCursors
    { blk := [], pkt := [], blockStart := 0, blockIndex := 0, blockLength := 0, packetIndex := 0, totalLength := 0, cap := cap }

/-- An encoder after hardware reset (R36, R37). -/
def Encoder.fresh : Encoder := { buf := [], index := 0 }

/-- Unit 0 after hardware reset (R34). -/
def Crc16Unit.reset : Crc16Unit := { reg := Config.crc16Init, out := [] }

/-- Unit 1 after hardware reset (R34). -/
def Crc32Unit.reset : Crc32Unit := { reg := Config.crc32Init, out := [] }

/-- Unit 2 after hardware reset (R35), of the default capacity (log 4). -/
def CobsdUnit.reset : CobsdUnit := { dec := Decoder.fresh Config.defaultPktCap, out := [] }

/-- Unit 3 after hardware reset (R36). -/
def CobseUnit.reset : CobseUnit := { enc := Encoder.fresh, out := [] }

/-- Unit 4 after hardware reset (R38), with the default parameters (R5, log 4). -/
def CkdUnit.reset : CkdUnit :=
  { dec := Decoder.fresh Config.defaultPktCap, forward := Config.ckdForwardNotifications, out := [] }

/-- Unit 5 after hardware reset (R38). -/
def CkeUnit.reset : CkeUnit := { enc := Encoder.fresh, crc := Config.crc16Init, count := 0, out := [] }

/-! ## One instance of a bank (00_scope.md R8, R10) -/

/-- The CRC16 instance `n`. -/
def State.crc16Of (s : State) (n : Nat) : Crc16Unit := Sparse.get Crc16Unit.reset s.crc16 n

/-- The CRC32 instance `n`. -/
def State.crc32Of (s : State) (n : Nat) : Crc32Unit := Sparse.get Crc32Unit.reset s.crc32 n

/-- The COBSD instance `n`. -/
def State.cobsdOf (s : State) (n : Nat) : CobsdUnit := Sparse.get CobsdUnit.reset s.cobsd n

/-- The COBSE instance `n`. -/
def State.cobseOf (s : State) (n : Nat) : CobseUnit := Sparse.get CobseUnit.reset s.cobse n

/-- The CKD instance `n`. -/
def State.ckdOf (s : State) (n : Nat) : CkdUnit := Sparse.get CkdUnit.reset s.ckd n

/-- The CKE instance `n`. -/
def State.ckeOf (s : State) (n : Nat) : CkeUnit := Sparse.get CkeUnit.reset s.cke n

/-- The CRC16 instance `n` becomes `u`. -/
def State.putCrc16 (s : State) (n : Nat) (u : Crc16Unit) : State :=
  { s with crc16 := Sparse.set Crc16Unit.reset s.crc16 n u }

/-- The CRC32 instance `n` becomes `u`. -/
def State.putCrc32 (s : State) (n : Nat) (u : Crc32Unit) : State :=
  { s with crc32 := Sparse.set Crc32Unit.reset s.crc32 n u }

/-- The COBSD instance `n` becomes `u`. -/
def State.putCobsd (s : State) (n : Nat) (u : CobsdUnit) : State :=
  { s with cobsd := Sparse.set CobsdUnit.reset s.cobsd n u }

/-- The COBSE instance `n` becomes `u`. -/
def State.putCobse (s : State) (n : Nat) (u : CobseUnit) : State :=
  { s with cobse := Sparse.set CobseUnit.reset s.cobse n u }

/-- The CKD instance `n` becomes `u`. -/
def State.putCkd (s : State) (n : Nat) (u : CkdUnit) : State :=
  { s with ckd := Sparse.set CkdUnit.reset s.ckd n u }

/-- The CKE instance `n` becomes `u`. -/
def State.putCke (s : State) (n : Nat) (u : CkeUnit) : State :=
  { s with cke := Sparse.set CkeUnit.reset s.cke n u }

/-! ## The end of a command (00_scope.md R8): the instance presented at gets its new state, and the command's events are
appended, in order, to what it has put out (R59, R229; log 2). No command ends otherwise. -/

/-- End of a CRC16 command. -/
def State.commitCrc16 (s : State) (r : Crc16Unit × List Event) : Host.Outcome State Fault Refusal :=
  .next (s.putCrc16 s.port { r.1 with out := r.1.out ++ r.2 })

/-- End of a CRC32 command. -/
def State.commitCrc32 (s : State) (r : Crc32Unit × List Event) : Host.Outcome State Fault Refusal :=
  .next (s.putCrc32 s.port { r.1 with out := r.1.out ++ r.2 })

/-- End of a COBSD command. -/
def State.commitCobsd (s : State) (r : CobsdUnit × List Event) : Host.Outcome State Fault Refusal :=
  .next (s.putCobsd s.port { r.1 with out := r.1.out ++ r.2 })

/-- End of a COBSE command. -/
def State.commitCobse (s : State) (r : CobseUnit × List Event) : Host.Outcome State Fault Refusal :=
  .next (s.putCobse s.port { r.1 with out := r.1.out ++ r.2 })

/-- End of a CKD command. -/
def State.commitCkd (s : State) (r : CkdUnit × List Event) : Host.Outcome State Fault Refusal :=
  .next (s.putCkd s.port { r.1 with out := r.1.out ++ r.2 })

/-- End of a CKE command. -/
def State.commitCke (s : State) (r : CkeUnit × List Event) : Host.Outcome State Fault Refusal :=
  .next (s.putCke s.port { r.1 with out := r.1.out ++ r.2 })

/-! ## The hardware reset (70_reset_and_hazards.md R250 to R252)

It emits no event, takes no emitted event back, and changes neither buffer contents nor parameters. -/

/-- R34 for one instance. -/
def Crc16Unit.hardwareReset (u : Crc16Unit) : Crc16Unit := { u with reg := Config.crc16Init }

/-- R34 for one instance. -/
def Crc32Unit.hardwareReset (u : Crc32Unit) : Crc32Unit := { u with reg := Config.crc32Init }

/-- R35 for one instance. -/
def CobsdUnit.hardwareReset (u : CobsdUnit) : CobsdUnit := { u with dec := u.dec.resetCursors }

/-- R36 for one instance. -/
def CobseUnit.hardwareReset (u : CobseUnit) : CobseUnit := { u with enc := u.enc.resetIndex }

/-- R38 for one instance. -/
def CkdUnit.hardwareReset (u : CkdUnit) : CkdUnit := { u with dec := u.dec.resetCursors }

/-- R38 for one instance. -/
def CkeUnit.hardwareReset (u : CkeUnit) : CkeUnit :=
  { u with enc := u.enc.resetIndex, crc := Config.crc16Init, count := 0 }

/-- "one hardware reset, which puts every instance of every unit in exactly that state" (R250). An unlisted instance is in it
already. -/
def State.hardwareReset (s : State) : State :=
  { s with
    crc16 := Sparse.map Crc16Unit.reset Crc16Unit.hardwareReset s.crc16
    crc32 := Sparse.map Crc32Unit.reset Crc32Unit.hardwareReset s.crc32
    cobsd := Sparse.map CobsdUnit.reset CobsdUnit.hardwareReset s.cobsd
    cobse := Sparse.map CobseUnit.reset CobseUnit.hardwareReset s.cobse
    ckd := Sparse.map CkdUnit.reset CkdUnit.hardwareReset s.ckd
    cke := Sparse.map CkeUnit.reset CkeUnit.hardwareReset s.cke }

/-! ## Creating a decoder instance (70_reset_and_hazards.md R253, 10_state.md R32; log 4) -/

/-- A new COBSD instance under the number `n`; the events the host has already taken at that number stay taken (R252). -/
def State.createCobsd (s : State) (n cap : Nat) : State :=
  s.putCobsd n { dec := Decoder.fresh cap, out := (s.cobsdOf n).out }

/-- A new CKD instance under the number `n`. -/
def State.createCkd (s : State) (n cap : Nat) (forward : Bool) : State :=
  s.putCkd n { dec := Decoder.fresh cap, forward := forward, out := (s.ckdOf n).out }

end Sys2Proof.Machine
end

