-- ==== Sys2Proof/Machine/Cobsd.lean ====
section
/-! DEFINITION. The COBS decoder (41_cobs_decoder.md R130 to R137) and the commands of unit 2. A sub-operation that emits
answers the new decoder and the events it emits, in order. -/

namespace Sys2Proof.Machine

/-- `StoreLiteral(d, b)` (R132). -/
def Decoder.storeLiteral (b : Byte) (d : Decoder) : Decoder :=
  { d with blk := d.blk.write d.blockIndex b, blockIndex := d.blockIndex + 1 }

/-- `UnexpectedZero(d)` (R133). -/
def Decoder.unexpectedZero (d : Decoder) : Decoder × List Event := raise .unexpectedZero d.resetCursors

/-- `ImplicitZero(d)`: does nothing when the previous block had prefix 255 or none has started (R134). -/
def Decoder.implicitZero (d : Decoder) : Decoder :=
  if d.blockLength ≠ Config.sentinel then
    { d with blk := d.blk.write d.blockIndex 0x00#8, blockIndex := d.blockIndex + 1 }
  else d

/-- `c = min(n, P - packetIndex)`: how many of the pending bytes still fit (R135). -/
def Decoder.fitting (d : Decoder) : Nat := min d.pending (d.cap - d.packetIndex)

/-- `Flush(d)`: the pending bytes that fit are copied, all are counted, and BLOCK carries the number copied; nothing happens
when none is pending (R135). -/
def Decoder.flush (d : Decoder) : Decoder × List Event :=
  if 0 < d.pending then
    ({ d with
        pkt := Memory.copy d.blk d.blockStart d.pkt d.packetIndex d.fitting
        packetIndex := d.packetIndex + d.fitting
        totalLength := d.totalLength + d.pending
        blockIndex := d.blockStart },
      [.block d.fitting])
  else (d, [])

/-- `BeginBlock(d, b)` (R136). -/
def Decoder.beginBlock (b : Byte) (d : Decoder) : Decoder :=
  { d with blockLength := byteValue b, blockStart := 1, blockIndex := 1 }

/-- What `PacketEnd(d)` emits after PACKET_END: nothing for an empty packet, the packet when all of it fitted, else the
error; and the reset (R137). -/
def Decoder.deliver (d : Decoder) : Decoder × List Event :=
  if 0 < d.totalLength then
    if d.totalLength = d.packetIndex then (d.resetCursors, [.packet (d.pkt.slice 0 d.packetIndex)])
    else raise (.overflow d.totalLength) d.resetCursors
  else (d.resetCursors, [])

/-- `PacketEnd(d)` (R137). -/
def Decoder.packetEnd (d : Decoder) : Decoder × List Event :=
  (d.deliver.1, .packetEnd d.totalLength :: d.deliver.2)

/-- A byte at a control position that is a length prefix: implicit zero, flush, new block (R131). -/
def Decoder.controlByte (b : Byte) (d : Decoder) : Decoder × List Event :=
  (d.implicitZero.flush.1.beginBlock b, d.implicitZero.flush.2)

/-- The delimiter at a control position: flush, packet end (R131). -/
def Decoder.delimiter (d : Decoder) : Decoder × List Event :=
  (d.flush.1.packetEnd.1, d.flush.2 ++ d.flush.1.packetEnd.2)

/-- The rule of `COBSD.BYTE b` applied to a decoder state (R131). -/
def Decoder.byte (b : Byte) (d : Decoder) : Decoder × List Event :=
  if d.inBlock then
    if b = 0 then d.unexpectedZero else (d.storeLiteral b, [])
  else
    if b = 0 then d.delimiter else d.controlByte b

/-- The bytes of a stream, one after another; the events are the concatenation (00_scope.md R9). -/
def Decoder.feed (s : List Byte) (d : Decoder) : Decoder × List Event :=
  match s with
  | [] => (d, [])
  | b :: rest => (((d.byte b).1.feed rest).1, (d.byte b).2 ++ ((d.byte b).1.feed rest).2)

/-- `COBSD.RST` (R130). -/
def execCobsdRst (s : State) : Host.Outcome State Fault Refusal :=
  s.commitCobsd ({ s.cobsdOf s.port with dec := (s.cobsdOf s.port).dec.resetCursors }, [])

/-- `COBSD.BYTE b` (R131). -/
def execCobsdByte (b : Byte) (s : State) : Host.Outcome State Fault Refusal :=
  s.commitCobsd
    ({ s.cobsdOf s.port with dec := ((s.cobsdOf s.port).dec.byte b).1 }, ((s.cobsdOf s.port).dec.byte b).2)

end Sys2Proof.Machine
end

