-- ==== Sys2Proof/Machine/Ckd.lean ====
section
/-! DEFINITION. The checked decoder (43_crc16_framer.md R180 to R183) and the commands of unit 4. -/

namespace Sys2Proof.Machine

/-- `CheckPacket(s)`: a fresh CRC16 accumulator over the entire packet; the payload is all bytes but the last two (R182). The
check changes no state (R181). -/
def checkPacket (s : List Byte) : List Event :=
  if s.length ≤ 2 then (raise (.tooSmallForCrc16 s.length) ()).2
  else if verifyOk16 (crcFeed Config.crc16Poly Config.crc16Init s) then [.packet (s.take (s.length - 2))]
  else (raise .crcMismatch ()).2

/-- What the checked decoder emits for one inner event (R181, R183). The last four kinds are no event of a COBS decoder
(41_cobs_decoder.md R138) and do not occur; they give nothing (log 11). -/
def ckdForward (forward : Bool) (ev : Event) : List Event :=
  match ev with
  | .block c => if forward then [.block c] else []
  | .packetEnd t => if forward then [.packetEnd t] else []
  | .err e => [.err e]
  | .packet s => checkPacket s
  | .value16 _ => []
  | .value32 _ => []
  | .bytes _ => []
  | .bool _ => []
  | .chunk _ => []

/-- The inner event list turned into the checked decoder's, in order (R181). -/
def ckdEvents (forward : Bool) (evs : List Event) : List Event :=
  match evs with
  | [] => []
  | ev :: rest => ckdForward forward ev ++ ckdEvents forward rest

/-- `CKD.RST` (R180). -/
def execCkdRst (s : State) : Host.Outcome State Fault Refusal :=
  s.commitCkd ({ s.ckdOf s.port with dec := (s.ckdOf s.port).dec.resetCursors }, [])

/-- `CKD.BYTE b` (R181). -/
def execCkdByte (b : Byte) (s : State) : Host.Outcome State Fault Refusal :=
  s.commitCkd
    ({ s.ckdOf s.port with dec := ((s.ckdOf s.port).dec.byte b).1 },
      ckdEvents (s.ckdOf s.port).forward ((s.ckdOf s.port).dec.byte b).2)

end Sys2Proof.Machine
end

