-- ==== Sys2Proof/Machine/Cobse.lean ====
section
/-! DEFINITION. The COBS encoder (42_cobs_encoder.md R160 to R162) and the commands of unit 3. -/

namespace Sys2Proof.Machine

/-- `e.buf[0] <- e.index`: the length prefix into its slot (R160, R162). -/
def Encoder.closeBlock (e : Encoder) : Encoder := { e with buf := e.buf.write 0 (lengthByte e.index) }

/-- The chunk of the closed pending block: `index` bytes, the prefix and `index - 1` payload bytes (R160). -/
def Encoder.blockChunk (e : Encoder) : Event := .chunk (e.closeBlock.buf.slice 0 e.index)

/-- `FlushBlock(e)`: afterwards a new, empty block is pending (R160; 90_conflicts.md C7). -/
def Encoder.flushBlock (e : Encoder) : Encoder × List Event := ({ e.closeBlock with index := 1 }, [e.blockChunk])

/-- "no block was pending: start one" (R161). -/
def Encoder.startBlock (e : Encoder) : Encoder := if e.noPending then { e with index := 1 } else e

/-- A non-zero payload byte is stored (R161). -/
def Encoder.append (b : Byte) (e : Encoder) : Encoder :=
  { e with buf := e.buf.write e.index b, index := e.index + 1 }

/-- The rule of `COBSE.DATA b` applied to an encoder state (R161). -/
def Encoder.data (b : Byte) (e : Encoder) : Encoder × List Event :=
  if b = 0 then e.startBlock.flushBlock
  else if (e.startBlock.append b).index = Config.fullIndex then (e.startBlock.append b).flushBlock
  else (e.startBlock.append b, [])

/-- The rule of `COBSE.DLM` applied to an encoder state (R162). -/
def Encoder.delimiter (e : Encoder) : Encoder × List Event :=
  if e.noPending then (e.resetIndex, [.chunk [0x00#8]])
  else (e.closeBlock.resetIndex, [e.blockChunk, .chunk [0x00#8]])

/-- The bytes of a payload, one after another (00_scope.md R9). -/
def Encoder.feed (s : List Byte) (e : Encoder) : Encoder × List Event :=
  match s with
  | [] => (e, [])
  | b :: rest => (((e.data b).1.feed rest).1, (e.data b).2 ++ ((e.data b).1.feed rest).2)

/-- `COBSE.DATA b` (R161). -/
def execCobseData (b : Byte) (s : State) : Host.Outcome State Fault Refusal :=
  s.commitCobse
    ({ s.cobseOf s.port with enc := ((s.cobseOf s.port).enc.data b).1 }, ((s.cobseOf s.port).enc.data b).2)

/-- `COBSE.DLM` (R162). -/
def execCobseDlm (s : State) : Host.Outcome State Fault Refusal :=
  s.commitCobse
    ({ s.cobseOf s.port with enc := (s.cobseOf s.port).enc.delimiter.1 }, (s.cobseOf s.port).enc.delimiter.2)

end Sys2Proof.Machine
end

