-- ==== Sys2Proof/Machine/Cke.lean ====
section
/-! DEFINITION. The checked encoder (43_crc16_framer.md R185, R186) and the commands of unit 5. -/

namespace Sys2Proof.Machine

/-- The bytes `CKE.DLM` appends: the running CRC's little-endian byte pair, only if a payload byte was written since the last
delimiter (R186, R83). -/
def CkeUnit.suffix (u : CkeUnit) : List Byte := if 0 < u.count then leBytes16 (finValue16 u.crc) else []

/-- The rule of `CKE.DATA b` (R185). -/
def CkeUnit.data (b : Byte) (u : CkeUnit) : CkeUnit × List Event :=
  ({ u with enc := (u.enc.data b).1, crc := crcStep Config.crc16Poly u.crc b, count := u.count + 1 }, (u.enc.data b).2)

/-- The rule of `CKE.DLM`: the suffix bytes go to the inner encoder, then the inner delimiter, then the running CRC and the
counter are reset (R186, 92 D25). -/
def CkeUnit.delimiter (u : CkeUnit) : CkeUnit × List Event :=
  ({ u with enc := (u.enc.feed u.suffix).1.delimiter.1, crc := Config.crc16Init, count := 0 },
    (u.enc.feed u.suffix).2 ++ (u.enc.feed u.suffix).1.delimiter.2)

/-- `CKE.DATA b` (R185). -/
def execCkeData (b : Byte) (s : State) : Host.Outcome State Fault Refusal :=
  s.commitCke ((s.ckeOf s.port).data b)

/-- `CKE.DLM` (R186). -/
def execCkeDlm (s : State) : Host.Outcome State Fault Refusal :=
  s.commitCke (s.ckeOf s.port).delimiter

end Sys2Proof.Machine
end

