-- ==== Sys2Proof/Machine/Crc16.lean ====
section
/-! DEFINITION. The commands of unit 0, the CRC16 accumulator (40_crc_accumulator.md R104 to R107). -/

namespace Sys2Proof.Machine

/-- `CRC16.RST` (R104). -/
def execCrc16Rst (s : State) : Host.Outcome State Fault Refusal :=
  s.commitCrc16 ({ s.crc16Of s.port with reg := Config.crc16Init }, [])

/-- `CRC16.UPD b` (R105). -/
def execCrc16Upd (b : Byte) (s : State) : Host.Outcome State Fault Refusal :=
  s.commitCrc16 ({ s.crc16Of s.port with reg := crcStep Config.crc16Poly (s.crc16Of s.port).reg b }, [])

/-- `CRC16.FIN f` (R106). -/
def execCrc16Fin (f : Byte) (s : State) : Host.Outcome State Fault Refusal :=
  s.commitCrc16
    (finish f (.value16 (finValue16 (s.crc16Of s.port).reg)) (leBytes16 (finValue16 (s.crc16Of s.port).reg))
      (s.crc16Of s.port))

/-- `CRC16.VFY` (R107). -/
def execCrc16Vfy (s : State) : Host.Outcome State Fault Refusal :=
  s.commitCrc16 (s.crc16Of s.port, [.bool (verifyOk16 (s.crc16Of s.port).reg)])

end Sys2Proof.Machine
end

