-- ==== Sys2Proof/Machine/Crc32.lean ====
section
/-! DEFINITION. The commands of unit 1, the CRC32 accumulator (40_crc_accumulator.md R108 to R111). -/

namespace Sys2Proof.Machine

/-- `CRC32.RST` (R108). -/
def execCrc32Rst (s : State) : Host.Outcome State Fault Refusal :=
  s.commitCrc32 ({ s.crc32Of s.port with reg := Config.crc32Init }, [])

/-- `CRC32.UPD b` (R109). -/
def execCrc32Upd (b : Byte) (s : State) : Host.Outcome State Fault Refusal :=
  s.commitCrc32 ({ s.crc32Of s.port with reg := crcStep Config.crc32Poly (s.crc32Of s.port).reg b }, [])

/-- `CRC32.FIN f` (R110). -/
def execCrc32Fin (f : Byte) (s : State) : Host.Outcome State Fault Refusal :=
  s.commitCrc32
    (finish f (.value32 (finValue32 (s.crc32Of s.port).reg)) (leBytes32 (finValue32 (s.crc32Of s.port).reg))
      (s.crc32Of s.port))

/-- `CRC32.VFY` (R111). -/
def execCrc32Vfy (s : State) : Host.Outcome State Fault Refusal :=
  s.commitCrc32 (s.crc32Of s.port, [.bool (verifyOk32 (s.crc32Of s.port).reg)])

end Sys2Proof.Machine
end

