-- ==== Sys2Proof/Machine/Dispatch.lean ====
section
/-! DEFINITION. One command is one atomic step of the instance it is presented at (00_scope.md R8): each command to its meaning. -/

namespace Sys2Proof.Machine

def exec (i : Instr) (s : State) : Host.Outcome State Fault Refusal :=
  match i with
  | .crc16Rst => Sys2Proof.Machine.execCrc16Rst s
  | .crc16Upd b => Sys2Proof.Machine.execCrc16Upd b s
  | .crc16Fin f => Sys2Proof.Machine.execCrc16Fin f s
  | .crc16Vfy => Sys2Proof.Machine.execCrc16Vfy s
  | .crc32Rst => Sys2Proof.Machine.execCrc32Rst s
  | .crc32Upd b => Sys2Proof.Machine.execCrc32Upd b s
  | .crc32Fin f => Sys2Proof.Machine.execCrc32Fin f s
  | .crc32Vfy => Sys2Proof.Machine.execCrc32Vfy s
  | .cobsdRst => Sys2Proof.Machine.execCobsdRst s
  | .cobsdByte b => Sys2Proof.Machine.execCobsdByte b s
  | .cobseData b => Sys2Proof.Machine.execCobseData b s
  | .cobseDlm => Sys2Proof.Machine.execCobseDlm s
  | .ckdRst => Sys2Proof.Machine.execCkdRst s
  | .ckdByte b => Sys2Proof.Machine.execCkdByte b s
  | .ckeData b => Sys2Proof.Machine.execCkeData b s
  | .ckeDlm => Sys2Proof.Machine.execCkeDlm s

end Sys2Proof.Machine
end

