-- ==== Sys2Proof/WellFormed.lean ====
section
/-! DEFINITION. What makes a command word well-formed, written from 30_encoding.md R74 by its own arithmetic and not
through the decoder. A term of `Instr` needs no check: its only operands are bytes, and every byte is legal (R73, R105,
R106, R131, R161); the ill-formed things of this hardware are command words. -/

namespace Sys2Proof.WellFormed

/-- `UNIT` is one of the six units, not "6 to 15" (R71, R74). -/
def unitKnown (w : CommandWord) : Bool := w.toNat / 4096 < 6

/-- `OP` is listed for this `UNIT` in the table of R72. -/
def opListed (w : CommandWord) : Bool :=
  let op := w.toNat / 256 % 16
  match w.toNat / 4096 with
  | 0 => op < 4
  | 1 => op < 4
  | 2 => op < 2
  | 3 => op == 1 || op == 2
  | 4 => op < 2
  | 5 => op == 1 || op == 2
  | _ => false

/-- The command takes no operand, so its `DATA` "must be 0" (R72): every RST, every VFY, every DLM. -/
def dataMustBeZero (w : CommandWord) : Bool :=
  let op := w.toNat / 256 % 16
  match w.toNat / 4096 with
  | 0 => op == 0 || op == 3
  | 1 => op == 0 || op == 3
  | 2 => op == 0
  | 3 => op == 2
  | 4 => op == 0
  | 5 => op == 2
  | _ => false

/-- `DATA` is zero where it must be (R74). -/
def dataAllowed (w : CommandWord) : Bool := !dataMustBeZero w || w.toNat % 256 == 0

/-- A legal command word: none of the three cases of R74 holds of it. -/
def legalWord (w : CommandWord) : Bool := unitKnown w && opListed w && dataAllowed w

end Sys2Proof.WellFormed
end

