-- ==== Sys2Proof/Decode.lean ====
section
/-! DEFINITION. The decoder and the encoder of command words (30_encoding.md R70 to R74; spec/opcode_table.json). -/

namespace Sys2Proof

/-- `UNIT = CW[15:12]` (R70). -/
def unitField (w : CommandWord) : BitVec 4 := w.extractLsb' 12 4

/-- `OP = CW[11:8]` (R70). -/
def opField (w : CommandWord) : BitVec 4 := w.extractLsb' 8 4

/-- `DATA = CW[7:0]` (R70): the operand byte, the format selector of FIN, or zero (R73). -/
def dataField (w : CommandWord) : Byte := w.extractLsb' 0 8

/-- A command without operand: its `DATA` "must be 0" (R72, R74). -/
def noOperand (i : Instr) (data : Byte) : Except Reject Instr :=
  if data = 0 then .ok i else .error .dataNotZero

/-- The operations of unit 0 (R72). -/
def decodeCrc16 (op : Nat) (data : Byte) : Except Reject Instr :=
  match op with
  | 0 => noOperand .crc16Rst data
  | 1 => .ok (.crc16Upd data)
  | 2 => .ok (.crc16Fin data)
  | 3 => noOperand .crc16Vfy data
  | _ => .error .reservedOperation

/-- The operations of unit 1 (R72). -/
def decodeCrc32 (op : Nat) (data : Byte) : Except Reject Instr :=
  match op with
  | 0 => noOperand .crc32Rst data
  | 1 => .ok (.crc32Upd data)
  | 2 => .ok (.crc32Fin data)
  | 3 => noOperand .crc32Vfy data
  | _ => .error .reservedOperation

/-- The operations of unit 2: no `OP` 2 or 3 (R72, R74). -/
def decodeCobsd (op : Nat) (data : Byte) : Except Reject Instr :=
  match op with
  | 0 => noOperand .cobsdRst data
  | 1 => .ok (.cobsdByte data)
  | _ => .error .reservedOperation

/-- The operations of unit 3: no `OP` 0 (R72, R74). -/
def decodeCobse (op : Nat) (data : Byte) : Except Reject Instr :=
  match op with
  | 1 => .ok (.cobseData data)
  | 2 => noOperand .cobseDlm data
  | _ => .error .reservedOperation

/-- The operations of unit 4: no `OP` 2 or 3 (R72, R74). -/
def decodeCkd (op : Nat) (data : Byte) : Except Reject Instr :=
  match op with
  | 0 => noOperand .ckdRst data
  | 1 => .ok (.ckdByte data)
  | _ => .error .reservedOperation

/-- The operations of unit 5: no `OP` 0 (R72, R74). -/
def decodeCke (op : Nat) (data : Byte) : Except Reject Instr :=
  match op with
  | 1 => .ok (.ckeData data)
  | 2 => noOperand .ckeDlm data
  | _ => .error .reservedOperation

/-- The decoder, total on command words: the command a word spells, or which case of R74 refuses it. -/
def decode (w : CommandWord) : Except Reject Instr :=
  match (unitField w).toNat with
  | 0 => decodeCrc16 (opField w).toNat (dataField w)
  | 1 => decodeCrc32 (opField w).toNat (dataField w)
  | 2 => decodeCobsd (opField w).toNat (dataField w)
  | 3 => decodeCobse (opField w).toNat (dataField w)
  | 4 => decodeCkd (opField w).toNat (dataField w)
  | 5 => decodeCke (opField w).toNat (dataField w)
  | _ => .error .reservedUnit

/-- The word with the given fields, `UNIT` on top (R70). -/
def commandWord (unit op : BitVec 4) (data : Byte) : CommandWord := (unit ++ op) ++ data

/-- The encoder: the one word that spells each command (R72). -/
def encode (i : Instr) : CommandWord :=
  match i with
  | .crc16Rst => commandWord 0 0 0
  | .crc16Upd b => commandWord 0 1 b
  | .crc16Fin f => commandWord 0 2 f
  | .crc16Vfy => commandWord 0 3 0
  | .crc32Rst => commandWord 1 0 0
  | .crc32Upd b => commandWord 1 1 b
  | .crc32Fin f => commandWord 1 2 f
  | .crc32Vfy => commandWord 1 3 0
  | .cobsdRst => commandWord 2 0 0
  | .cobsdByte b => commandWord 2 1 b
  | .cobseData b => commandWord 3 1 b
  | .cobseDlm => commandWord 3 2 0
  | .ckdRst => commandWord 4 0 0
  | .ckdByte b => commandWord 4 1 b
  | .ckeData b => commandWord 5 1 b
  | .ckeDlm => commandWord 5 2 0

/-- The unit kind a command addresses (R71, R72). -/
def Instr.unit (i : Instr) : UnitKind :=
  match i with
  | .crc16Rst => .crc16
  | .crc16Upd _ => .crc16
  | .crc16Fin _ => .crc16
  | .crc16Vfy => .crc16
  | .crc32Rst => .crc32
  | .crc32Upd _ => .crc32
  | .crc32Fin _ => .crc32
  | .crc32Vfy => .crc32
  | .cobsdRst => .cobsd
  | .cobsdByte _ => .cobsd
  | .cobseData _ => .cobse
  | .cobseDlm => .cobse
  | .ckdRst => .ckd
  | .ckdByte _ => .ckd
  | .ckeData _ => .cke
  | .ckeDlm => .cke

/-- The number of a unit kind (R71). -/
def UnitKind.number (k : UnitKind) : Nat :=
  match k with
  | .crc16 => 0
  | .crc32 => 1
  | .cobsd => 2
  | .cobse => 3
  | .ckd => 4
  | .cke => 5

/-- The instruction the decoder reads from the bits `w` of an opcode-table row of `nbits` bits. A command is ONE 16-bit word
(R70), so bits above the sixteenth spell no command; the word is presented whole, not as bytes (R53). -/
def decodeTableWord (nbits w : Nat) : Option Instr :=
  let bits := w % 2 ^ nbits
  if bits < 2 ^ 16 then
    match decode (BitVec.ofNat 16 bits) with
    | .ok i => some i
    | .error _ => none
  else none

end Sys2Proof
end

