-- ==== Sys2Proof/Machine/Fetch.lean ====
section
/-! DEFINITION. The block fetches nothing (10_state.md R30); the analogue of program order is the order in which the host
presents its inputs (R30, 00_scope.md R11). What the next input is, and the state with it taken off the host's list. -/

namespace Sys2Proof.Machine

/-- What a step finds at the head of the host's list. -/
inductive Presented where
  /-- Nothing: the block is idle and keeps all its state (60_exceptions.md R234, 70_reset_and_hazards.md R254). -/
  | idle
  /-- The command a word spells, with the state in which it runs: presented at its instance, taken off the list. -/
  | command (i : Instr) (s : State)
  /-- A word that spells no command (30_encoding.md R74). -/
  | illegal (why : Reject)
  /-- A host input that is no command, with the state after it. -/
  | done (s : State)
  deriving DecidableEq, Repr

/-- The state with the rest of the list. -/
def State.advance (s : State) (rest : List HostInput) : State := { s with stream := rest }

/-- The state in which a command presented at instance `n` runs (R70). -/
def State.present (s : State) (n : Nat) (rest : List HostInput) : State := { s with port := n, stream := rest }

/-- The next host input (R11, R258: one list, taken in order). -/
def State.nextInput (s : State) : Presented :=
  match s.stream with
  | [] => .idle
  | .command n w :: rest =>
    match decode w with
    | .ok i => .command i (s.present n rest)
    | .error why => .illegal why
  | .hardwareReset :: rest => .done (s.advance rest).hardwareReset
  | .createCobsd n cap :: rest => .done ((s.advance rest).createCobsd n cap)
  | .createCkd n cap forward :: rest => .done ((s.advance rest).createCkd n cap forward)

/-- The word `w` of `nbits` bits put first on the host's list, presented at the current port. -/
def State.placeWord (s : State) (nbits w : Nat) : State :=
  { s with stream := .command s.port (BitVec.ofNat 16 (w % 2 ^ nbits)) :: s.stream }

end Sys2Proof.Machine
end

