-- ==== Sys2Proof/Machine/Step.lean ====
section
/-! DEFINITION. One step: the host's next input is taken and carried out to completion (00_scope.md R8, R11). -/

namespace Sys2Proof.Machine

/-- One step of the block. With no input the block is idle and nothing changes (60_exceptions.md R234). -/
def step (s : State) : Host.Outcome State Fault Refusal :=
  match s.nextInput with
  | .idle => .next s
  | .command i t => exec i t
  | .illegal why => .refused (.illegalCommand why)
  | .done t => .next t

/-- `s` with the command word of `nbits` bits as the host's next input (log 16). -/
def State.withFetchWord (s : State) (nbits w : Nat) : State := s.placeWord nbits w

end Sys2Proof.Machine
end

