-- ==== Sys2Proof/Laws/PerInstr.lean ====
section
/-! SUPPORT. Facts about every command as syntax, one lemma per constructor of `Instr`. -/

namespace Sys2Proof.Laws

/-- The fields of a command's word: its `UNIT` is the number of its unit kind (R71), and a command with an operand byte carries it
in `DATA`, a command without one has `DATA` 0 (R72, R73). -/
def CommandWordFields.Statement (i : Instr) : Prop :=
  (unitField (encode i)).toNat = i.unit.number ∧
  dataField (encode i) =
    match i with
    | .crc16Rst => 0
    | .crc16Upd b => b
    | .crc16Fin f => f
    | .crc16Vfy => 0
    | .crc32Rst => 0
    | .crc32Upd b => b
    | .crc32Fin f => f
    | .crc32Vfy => 0
    | .cobsdRst => 0
    | .cobsdByte b => b
    | .cobseData b => b
    | .cobseDlm => 0
    | .ckdRst => 0
    | .ckdByte b => b
    | .ckeData b => b
    | .ckeDlm => 0

theorem unitField_commandWord (unit op : BitVec 4) (data : Byte) : unitField (commandWord unit op data) = unit := by
  apply BitVec.eq_of_getLsbD_eq
  intro i hi
  simp only [unitField, commandWord, BitVec.getLsbD_extractLsb', BitVec.getLsbD_append]
  simp [hi, show ¬ 12 + i < 8 by omega, show ¬ 12 + i - 8 < 4 by omega, show 12 + i - 8 - 4 = i by omega]

theorem opField_commandWord (unit op : BitVec 4) (data : Byte) : opField (commandWord unit op data) = op := by
  apply BitVec.eq_of_getLsbD_eq
  intro i hi
  simp only [opField, commandWord, BitVec.getLsbD_extractLsb', BitVec.getLsbD_append]
  simp [hi, show ¬ 8 + i < 8 by omega, show 8 + i - 8 = i by omega]

theorem dataField_commandWord (unit op : BitVec 4) (data : Byte) : dataField (commandWord unit op data) = data := by
  apply BitVec.eq_of_getLsbD_eq
  intro i hi
  simp only [dataField, commandWord, BitVec.getLsbD_extractLsb', BitVec.getLsbD_append]
  simp [hi]

theorem CommandWordFields.of_commandWord (i : Instr) (unit op : BitVec 4) (data : Byte)
    (h : encode i = commandWord unit op data) :
    (unitField (encode i)).toNat = unit.toNat ∧ dataField (encode i) = data := by
  rw [h, unitField_commandWord, dataField_commandWord]; exact ⟨rfl, rfl⟩

theorem CommandWordFields.crc16Rst : CommandWordFields.Statement .crc16Rst := of_commandWord _ 0 0 0 rfl
theorem CommandWordFields.crc16Upd (b : Byte) : CommandWordFields.Statement (.crc16Upd b) := of_commandWord _ 0 1 b rfl
theorem CommandWordFields.crc16Fin (f : Byte) : CommandWordFields.Statement (.crc16Fin f) := of_commandWord _ 0 2 f rfl
theorem CommandWordFields.crc16Vfy : CommandWordFields.Statement .crc16Vfy := of_commandWord _ 0 3 0 rfl
theorem CommandWordFields.crc32Rst : CommandWordFields.Statement .crc32Rst := of_commandWord _ 1 0 0 rfl
theorem CommandWordFields.crc32Upd (b : Byte) : CommandWordFields.Statement (.crc32Upd b) := of_commandWord _ 1 1 b rfl
theorem CommandWordFields.crc32Fin (f : Byte) : CommandWordFields.Statement (.crc32Fin f) := of_commandWord _ 1 2 f rfl
theorem CommandWordFields.crc32Vfy : CommandWordFields.Statement .crc32Vfy := of_commandWord _ 1 3 0 rfl
theorem CommandWordFields.cobsdRst : CommandWordFields.Statement .cobsdRst := of_commandWord _ 2 0 0 rfl
theorem CommandWordFields.cobsdByte (b : Byte) : CommandWordFields.Statement (.cobsdByte b) := of_commandWord _ 2 1 b rfl
theorem CommandWordFields.cobseData (b : Byte) : CommandWordFields.Statement (.cobseData b) := of_commandWord _ 3 1 b rfl
theorem CommandWordFields.cobseDlm : CommandWordFields.Statement .cobseDlm := of_commandWord _ 3 2 0 rfl
theorem CommandWordFields.ckdRst : CommandWordFields.Statement .ckdRst := of_commandWord _ 4 0 0 rfl
theorem CommandWordFields.ckdByte (b : Byte) : CommandWordFields.Statement (.ckdByte b) := of_commandWord _ 4 1 b rfl
theorem CommandWordFields.ckeData (b : Byte) : CommandWordFields.Statement (.ckeData b) := of_commandWord _ 5 1 b rfl
theorem CommandWordFields.ckeDlm : CommandWordFields.Statement .ckeDlm := of_commandWord _ 5 2 0 rfl

end Sys2Proof.Laws
end

