-- ==== Sys2Proof/Machine/Asm.lean ====
section
/-! DEFINITION. The assembler syntax and the pseudo-instructions (30_encoding.md R84). -/

namespace Sys2Proof.Machine

/-- The pseudo-instructions of R84, each with its bytes. -/
inductive Pseudo where
  | crc16Update (s : List Byte)
  | crc32Update (s : List Byte)
  | crc16Finish
  | crc32Finish
  | cobsdDecode (s : List Byte)
  | cobseEncode (s : List Byte)
  | ckdDecode (s : List Byte)
  | ckeEncode (s : List Byte)
  | cobseFrame (s : List Byte)
  | ckeFrame (s : List Byte)
  | cobseKeepalive
  deriving DecidableEq, Repr

/-- The commands a pseudo-instruction stands for (R84); no bytes, no commands (00_scope.md R9). -/
def Pseudo.expand (p : Pseudo) : List Instr :=
  match p with
  | .crc16Update s => s.map .crc16Upd
  | .crc32Update s => s.map .crc32Upd
  | .crc16Finish => [.crc16Fin 0]
  | .crc32Finish => [.crc32Fin 0]
  | .cobsdDecode s => s.map .cobsdByte
  | .cobseEncode s => s.map .cobseData
  | .ckdDecode s => s.map .ckdByte
  | .ckeEncode s => s.map .ckeData
  | .cobseFrame s => .cobseDlm :: s.map .cobseData ++ [.cobseDlm]
  | .ckeFrame s => .ckeDlm :: s.map .ckeData ++ [.ckeDlm]
  | .cobseKeepalive => [.cobseDlm]

/-- The mnemonic of a command, `UNIT.OP` (R72, R84). -/
def mnemonic (i : Instr) : String :=
  match i with
  | .crc16Rst => "CRC16.RST"
  | .crc16Upd _ => "CRC16.UPD"
  | .crc16Fin _ => "CRC16.FIN"
  | .crc16Vfy => "CRC16.VFY"
  | .crc32Rst => "CRC32.RST"
  | .crc32Upd _ => "CRC32.UPD"
  | .crc32Fin _ => "CRC32.FIN"
  | .crc32Vfy => "CRC32.VFY"
  | .cobsdRst => "COBSD.RST"
  | .cobsdByte _ => "COBSD.BYTE"
  | .cobseData _ => "COBSE.DATA"
  | .cobseDlm => "COBSE.DLM"
  | .ckdRst => "CKD.RST"
  | .ckdByte _ => "CKD.BYTE"
  | .ckeData _ => "CKE.DATA"
  | .ckeDlm => "CKE.DLM"

/-- One hexadecimal digit (R6). -/
def hexDigit (c : Char) : Option Nat :=
  if '0'.toNat ≤ c.toNat ∧ c.toNat ≤ '9'.toNat then some (c.toNat - '0'.toNat)
  else if 'a'.toNat ≤ c.toNat ∧ c.toNat ≤ 'f'.toNat then some (c.toNat - 'a'.toNat + 10)
  else if 'A'.toNat ≤ c.toNat ∧ c.toNat ≤ 'F'.toNat then some (c.toNat - 'A'.toNat + 10)
  else none

/-- An operand "written as two hexadecimal digits" (R84). -/
def byteOperand (token : List Char) : Option Byte :=
  match token with
  | [h, l] =>
    match hexDigit h, hexDigit l with
    | some x, some y => some (BitVec.ofNat 8 (16 * x + y))
    | _, _ => none
  | _ => none

/-- The operand of FIN: two digits, "or as `NUM` (0) and `SEQ` (1)" (R84). -/
def formatOperand (token : List Char) : Option Byte :=
  if token = "NUM".toList then some 0
  else if token = "SEQ".toList then some 1
  else byteOperand token

/-- The byte operands of a pseudo-instruction. -/
def byteOperands (tokens : List (List Char)) : Option (List Byte) :=
  match tokens with
  | [] => some []
  | t :: rest =>
    match byteOperand t, byteOperands rest with
    | some b, some bs => some (b :: bs)
    | _, _ => none

/-- The line without its comment: "`;` starts a comment" (R84). -/
def uncomment (line : List Char) : List Char :=
  match line with
  | [] => []
  | c :: rest => if c = ';' then [] else c :: uncomment rest

/-- The tokens of a line, split at spaces (log 20). -/
def tokens (line : List Char) : List (List Char) :=
  match line with
  | [] => []
  | c :: rest =>
    if c = ' ' then tokens rest
    else match rest with
      | [] => [[c]]
      | d :: _ =>
        if d = ' ' then [c] :: tokens rest
        else match tokens rest with
          | [] => [[c]]
          | t :: more => (c :: t) :: more

/-- A command without operand. -/
def bare (i : Instr) (args : List (List Char)) : Option (List Instr) :=
  match args with
  | [] => some [i]
  | _ :: _ => none

/-- A command with one operand. -/
def withOperand (operand : List Char → Option Byte) (f : Byte → Instr) (args : List (List Char)) : Option (List Instr) :=
  match args with
  | [t] => (operand t).map (fun b => [f b])
  | _ => none

/-- A pseudo-instruction with bytes. -/
def withBytes (f : List Byte → Pseudo) (args : List (List Char)) : Option (List Instr) :=
  (byteOperands args).map (fun s => (f s).expand)

/-- A pseudo-instruction without bytes. -/
def withoutBytes (p : Pseudo) (args : List (List Char)) : Option (List Instr) :=
  match args with
  | [] => some p.expand
  | _ :: _ => none

/-- The commands of a line that names one command or pseudo-instruction (R84, R72). -/
def assembleWords (name : String) (args : List (List Char)) : Option (List Instr) :=
  match name with
  | "CRC16.RST" => bare .crc16Rst args
  | "CRC16.UPD" => withOperand byteOperand .crc16Upd args
  | "CRC16.FIN" => withOperand formatOperand .crc16Fin args
  | "CRC16.VFY" => bare .crc16Vfy args
  | "CRC32.RST" => bare .crc32Rst args
  | "CRC32.UPD" => withOperand byteOperand .crc32Upd args
  | "CRC32.FIN" => withOperand formatOperand .crc32Fin args
  | "CRC32.VFY" => bare .crc32Vfy args
  | "COBSD.RST" => bare .cobsdRst args
  | "COBSD.BYTE" => withOperand byteOperand .cobsdByte args
  | "COBSE.DATA" => withOperand byteOperand .cobseData args
  | "COBSE.DLM" => bare .cobseDlm args
  | "CKD.RST" => bare .ckdRst args
  | "CKD.BYTE" => withOperand byteOperand .ckdByte args
  | "CKE.DATA" => withOperand byteOperand .ckeData args
  | "CKE.DLM" => bare .ckeDlm args
  | "CRC16.UPDATE" => withBytes .crc16Update args
  | "CRC32.UPDATE" => withBytes .crc32Update args
  | "CRC16.FINISH" => withoutBytes .crc16Finish args
  | "CRC32.FINISH" => withoutBytes .crc32Finish args
  | "COBSD.DECODE" => withBytes .cobsdDecode args
  | "COBSE.ENCODE" => withBytes .cobseEncode args
  | "CKD.DECODE" => withBytes .ckdDecode args
  | "CKE.ENCODE" => withBytes .ckeEncode args
  | "COBSE.FRAME" => withBytes .cobseFrame args
  | "CKE.FRAME" => withBytes .ckeFrame args
  | "COBSE.KEEPALIVE" => withoutBytes .cobseKeepalive args
  | _ => none

/-- An assembled line: the instance name it is prefixed by, if any, and its commands (R84). -/
structure AsmLine where
  label : Option String
  commands : List Instr
  deriving DecidableEq, Repr

/-- Whether a token is "an instance name and a colon" (R84). -/
def isLabel (token : List Char) : Bool := 1 < token.length && token.getLast? == some ':'

/-- One line of assembler text; `none` when it is not in the syntax of R84. An empty line has no command. -/
def assemble (line : String) : Option AsmLine :=
  match tokens (uncomment line.toList) with
  | [] => some { label := none, commands := [] }
  | t :: rest =>
    if isLabel t then
      match rest with
      | [] => none
      | m :: args =>
        (assembleWords (String.ofList m) args).map
          (fun is => { label := some (String.ofList t.dropLast), commands := is })
    else (assembleWords (String.ofList t) rest).map (fun is => { label := none, commands := is })

end Sys2Proof.Machine
end

