-- ==== Sys2Proof/Machine/Run.lean ====
section
/-! DEFINITION. A chunk as the sequence of its byte commands (00_scope.md R9): commands carried out one after another by the
instance presented at, each to completion before the next begins (R11). -/

namespace Sys2Proof.Machine

/-- The commands in order; "a zero-length chunk is no command at all and changes nothing" (R9). -/
def execAll (is : List Instr) (s : State) : Host.Outcome State Fault Refusal :=
  match is with
  | [] => .next s
  | i :: rest =>
    match exec i s with
    | .next t => execAll rest t
    | .fault r => .fault r
    | .refused r => .refused r

end Sys2Proof.Machine
end

