-- ==== Sys2Proof/Machine/Events.lean ====
section
/-! DEFINITION. Event records: tags, error codes and the information recorded with an error (30_encoding.md R75, R76). -/

namespace Sys2Proof.Machine

/-- The code of an error, which is also the tag of its event (R76). -/
def Error.code (e : Error) : Byte :=
  match e with
  | .invalidFormat => 0x81#8
  | .unexpectedZero => 0x82#8
  | .overflow _ => 0x83#8
  | .tooSmallForCrc16 _ => 0x84#8
  | .crcMismatch => 0x85#8

/-- The information recorded with an error: `totalLength`, or nothing (R76, R220). -/
def Error.info (e : Error) : Option Nat :=
  match e with
  | .invalidFormat => none
  | .unexpectedZero => none
  | .overflow t => some t
  | .tooSmallForCrc16 t => some t
  | .crcMismatch => none

/-- The tag of an event (R75). -/
def Event.tag (ev : Event) : Byte :=
  match ev with
  | .value16 _ => 0x01#8
  | .value32 _ => 0x01#8
  | .bytes _ => 0x02#8
  | .bool _ => 0x03#8
  | .chunk _ => 0x10#8
  | .block _ => 0x20#8
  | .packetEnd _ => 0x21#8
  | .packet _ => 0x22#8
  | .err e => e.code

/-- Whether an event is an error event (R76). -/
def Event.isError (ev : Event) : Bool :=
  match ev with
  | .value16 _ => false
  | .value32 _ => false
  | .bytes _ => false
  | .bool _ => false
  | .chunk _ => false
  | .block _ => false
  | .packetEnd _ => false
  | .packet _ => false
  | .err _ => true

/-- The bytes a CHUNK event carries; other events carry none on the encoder's wire (R75). -/
def Event.chunkPart (ev : Event) : List Byte :=
  match ev with
  | .value16 _ => []
  | .value32 _ => []
  | .bytes _ => []
  | .bool _ => []
  | .chunk s => s
  | .block _ => []
  | .packetEnd _ => []
  | .packet _ => []
  | .err _ => []

/-- The concatenated bytes of an encoder's chunks, which alone the source makes significant (00_scope.md R13). -/
def wireBytes (evs : List Event) : List Byte :=
  match evs with
  | [] => []
  | ev :: rest => ev.chunkPart ++ wireBytes rest

end Sys2Proof.Machine
end

