-- ==== Sys2Proof/Machine/Wire.lean ====
section
/-! DEFINITION. The wire formats as functions of the payload, written from 30_encoding.md R77 to R83 and 42_cobs_encoder.md R165
and not through the encoder or the decoder, so that statements can compare the units with them. -/

namespace Sys2Proof.Machine

/-- The payload bytes of a block: at most 254, all non-zero (R78). -/
def Wire.blockOk (p : List Byte) : Bool := p.length ≤ Config.maxPayload && p.all (fun b => b != 0)

/-- A block on the wire: the length prefix counts itself (R78). -/
def Wire.block (p : List Byte) : List Byte := lengthByte (p.length + 1) :: p

/-- A packet body: a sequence of blocks, given by their payloads (R78). -/
def Wire.body (blocks : List (List Byte)) : List Byte :=
  match blocks with
  | [] => []
  | p :: rest => Wire.block p ++ Wire.body rest

/-- `p_i z_i`: what each block stands for in the packet. A zero is implied after a block whose prefix is below 255 and which
another block of the packet follows (R79, R80, R81). -/
def Wire.pieces (blocks : List (List Byte)) : List (List Byte) :=
  match blocks with
  | [] => []
  | [p] => [p]
  | p :: q :: rest => (if p.length = Config.maxPayload then p else p ++ [0x00#8]) :: Wire.pieces (q :: rest)

/-- The packet a body stands for (R81). -/
def Wire.packet (blocks : List (List Byte)) : List Byte := (Wire.pieces blocks).flatten

/-- The BLOCK events of a packet whose pieces are given: one for each that is not empty, with the number of its bytes that still
fit a buffer of `cap` bytes when `total` bytes came before (R139, R135). -/
def Wire.blockEvents (cap total : Nat) (pieces : List (List Byte)) : List Event :=
  match pieces with
  | [] => []
  | p :: rest =>
    if p.length = 0 then Wire.blockEvents cap total rest
    else .block (min p.length (cap - total)) :: Wire.blockEvents cap (total + p.length) rest

/-- What a packet end reports: PACKET_END, then the packet, Overflow or nothing (R137, R139). -/
def Wire.endEvents (cap : Nat) (packet : List Byte) : List Event :=
  .packetEnd packet.length ::
    (if packet.length = 0 then [] else if packet.length ≤ cap then [.packet packet] else [.err (.overflow packet.length)])

/-- `B` split at its zero bytes into runs of non-zero bytes, one more than there are zeros (R165). -/
def Wire.runs (s : List Byte) : List (List Byte) :=
  match s with
  | [] => [[]]
  | b :: rest =>
    if b = 0 then [] :: Wire.runs rest
    else match Wire.runs rest with
      | [] => [[b]]
      | r :: more => (b :: r) :: more

/-- The blocks of one run: `full` blocks of 254 bytes, then one block with what is left (R165). -/
def Wire.runBlocks (full : Nat) (run : List Byte) : List (List Byte) :=
  match full with
  | 0 => [run]
  | k + 1 => run.take Config.maxPayload :: Wire.runBlocks k (run.drop Config.maxPayload)

/-- The blocks of all runs, in order (R165). -/
def Wire.allBlocks (runs : List (List Byte)) : List (List Byte) :=
  match runs with
  | [] => []
  | r :: rest => Wire.runBlocks (r.length / Config.maxPayload) r ++ Wire.allBlocks rest

/-- The encoder's concatenated output for a payload followed by DLM, from the reset state (R165). -/
def Wire.frame (s : List Byte) : List Byte :=
  if s = [] then [0x00#8] else Wire.body (Wire.allBlocks (Wire.runs s)) ++ [0x00#8]

/-- The packet of the checked framing: the payload and its CRC16 suffix, only if the payload is not empty (R83). -/
def Wire.suffixed (s : List Byte) : List Byte :=
  if s = [] then [] else s ++ leBytes16 (finValue16 (crcFeed Config.crc16Poly Config.crc16Init s))

/-- The concatenated output of `CKE.FRAME B` from the reset state: the open delimiter and the frame (R187). -/
def Wire.checkedFrame (s : List Byte) : List Byte := 0x00#8 :: Wire.frame (Wire.suffixed s)

end Sys2Proof.Machine
end

