-- ==== Sys2Proof/Safety.lean ====
section
/-! DEFINITION. The terms the statements use: invariants of the units (10_state.md R24, R26, R38; 20_memory.md R51), what two
states agree on, what a command leaves alone, and what has been put out. -/

namespace Sys2Proof.Machine

/-! ## The reset states in the spec's numbers (10_state.md R35, R36, R38) -/

/-- The five cursors after a reset (R35). -/
def Decoder.atReset (d : Decoder) : Prop :=
  d.blockStart = 255 ∧ d.blockIndex = 255 ∧ d.blockLength = 255 ∧ d.packetIndex = 0 ∧ d.totalLength = 0

/-- The checked encoder after a reset (R38). -/
def CkeUnit.atReset (u : CkeUnit) : Prop := u.enc.index = 0 ∧ u.crc = 0xFFFF#16 ∧ u.count = 0

/-! ## Invariants of reachable states -/

/-- I1 of R24. -/
def Decoder.cursorsInRange (d : Decoder) : Prop :=
  (d.blockStart = 255 ∧ d.blockIndex = 255 ∧ d.blockLength = 255) ∨
    (d.blockStart = 1 ∧ 1 ≤ d.blockIndex ∧ d.blockIndex ≤ d.blockLength ∧ d.blockLength ≤ 255)

/-- I1 to I4 of R24, the indices written of R51, and the canonical form of the buffers. -/
def Decoder.Inv (d : Decoder) : Prop :=
  d.cursorsInRange ∧
  d.packetIndex ≤ d.cap ∧
  d.packetIndex = min d.totalLength d.cap ∧
  (∀ i, d.blockStart ≤ i → i < d.blockIndex → d.blk.read i ≠ 0) ∧
  d.blk.wf = true ∧ d.pkt.wf = true ∧
  (∀ e ∈ d.blk, 1 ≤ e.1 ∧ e.1 ≤ 254) ∧
  (∀ e ∈ d.pkt, e.1 < d.cap)

/-- The invariant of R26, the indices written of R51, and the canonical form of the buffer. -/
def Encoder.Inv (e : Encoder) : Prop :=
  e.index ≤ 254 ∧
  (∀ i, 1 ≤ i → i < e.index → e.buf.read i ≠ 0) ∧
  e.buf.wf = true ∧
  (∀ c ∈ e.buf, c.1 ≤ 254)

/-- The checked encoder: its inner encoder's invariant; no byte counted means the reset state of R38, and a byte counted means
that a block is pending (R185, R161). -/
def CkeUnit.Inv (u : CkeUnit) : Prop :=
  u.enc.Inv ∧ (u.count = 0 → u.atReset) ∧ (0 < u.count → 0 < u.enc.index)

/-- The whole machine: every bank in canonical form, every instance in its invariant. -/
def State.Inv (s : State) : Prop :=
  (Sparse.canonical Crc16Unit.reset s.crc16 = true ∧ Sparse.canonical Crc32Unit.reset s.crc32 = true ∧
    Sparse.canonical CobsdUnit.reset s.cobsd = true ∧ Sparse.canonical CobseUnit.reset s.cobse = true ∧
    Sparse.canonical CkdUnit.reset s.ckd = true ∧ Sparse.canonical CkeUnit.reset s.cke = true) ∧
  (∀ n, (s.cobsdOf n).dec.Inv) ∧ (∀ n, (s.cobseOf n).enc.Inv) ∧
  (∀ n, (s.ckdOf n).dec.Inv) ∧ (∀ n, (s.ckeOf n).Inv)

/-! ## Agreement up to bytes no command reads (20_memory.md R58) -/

/-- Two decoders that differ at most in buffer bytes that were not written since the cursors were last reset. -/
def Decoder.agree (d e : Decoder) : Prop :=
  d.cap = e.cap ∧ d.blockStart = e.blockStart ∧ d.blockIndex = e.blockIndex ∧ d.blockLength = e.blockLength ∧
  d.packetIndex = e.packetIndex ∧ d.totalLength = e.totalLength ∧
  (∀ i, d.blockStart ≤ i → i < d.blockIndex → d.blk.read i = e.blk.read i) ∧
  (∀ i, i < d.packetIndex → d.pkt.read i = e.pkt.read i)

/-- Two encoders that differ at most in such bytes: `buf[0]` and everything from `index` on. -/
def Encoder.agree (e f : Encoder) : Prop :=
  e.index = f.index ∧ ∀ i, 1 ≤ i → i < e.index → e.buf.read i = f.buf.read i

/-- Two machines whose instances all agree, with the same port, the same inputs to come and the same events put out. -/
def State.agree (s t : State) : Prop :=
  s.port = t.port ∧ s.stream = t.stream ∧
  (∀ n, s.crc16Of n = t.crc16Of n) ∧ (∀ n, s.crc32Of n = t.crc32Of n) ∧
  (∀ n, (s.cobsdOf n).dec.agree (t.cobsdOf n).dec ∧ (s.cobsdOf n).out = (t.cobsdOf n).out) ∧
  (∀ n, (s.cobseOf n).enc.agree (t.cobseOf n).enc ∧ (s.cobseOf n).out = (t.cobseOf n).out) ∧
  (∀ n, (s.ckdOf n).dec.agree (t.ckdOf n).dec ∧ (s.ckdOf n).forward = (t.ckdOf n).forward ∧
    (s.ckdOf n).out = (t.ckdOf n).out) ∧
  (∀ n, (s.ckeOf n).enc.agree (t.ckeOf n).enc ∧ (s.ckeOf n).crc = (t.ckeOf n).crc ∧
    (s.ckeOf n).count = (t.ckeOf n).count ∧ (s.ckeOf n).out = (t.ckeOf n).out)

/-! ## Frames: everything but one instance of one unit kind -/

/-- The same port and the same inputs to come. -/
def sameHost (s t : State) : Prop := t.port = s.port ∧ t.stream = s.stream

/-- Only the CRC16 instance presented at may differ. -/
def onlyCrc16 (s t : State) : Prop :=
  sameHost s t ∧ (∀ n, n ≠ s.port → t.crc16Of n = s.crc16Of n) ∧
  t.crc32 = s.crc32 ∧ t.cobsd = s.cobsd ∧ t.cobse = s.cobse ∧ t.ckd = s.ckd ∧ t.cke = s.cke

/-- Only the CRC32 instance presented at may differ. -/
def onlyCrc32 (s t : State) : Prop :=
  sameHost s t ∧ (∀ n, n ≠ s.port → t.crc32Of n = s.crc32Of n) ∧
  t.crc16 = s.crc16 ∧ t.cobsd = s.cobsd ∧ t.cobse = s.cobse ∧ t.ckd = s.ckd ∧ t.cke = s.cke

/-- Only the COBSD instance presented at may differ. -/
def onlyCobsd (s t : State) : Prop :=
  sameHost s t ∧ (∀ n, n ≠ s.port → t.cobsdOf n = s.cobsdOf n) ∧
  t.crc16 = s.crc16 ∧ t.crc32 = s.crc32 ∧ t.cobse = s.cobse ∧ t.ckd = s.ckd ∧ t.cke = s.cke

/-- Only the COBSE instance presented at may differ. -/
def onlyCobse (s t : State) : Prop :=
  sameHost s t ∧ (∀ n, n ≠ s.port → t.cobseOf n = s.cobseOf n) ∧
  t.crc16 = s.crc16 ∧ t.crc32 = s.crc32 ∧ t.cobsd = s.cobsd ∧ t.ckd = s.ckd ∧ t.cke = s.cke

/-- Only the CKD instance presented at may differ. -/
def onlyCkd (s t : State) : Prop :=
  sameHost s t ∧ (∀ n, n ≠ s.port → t.ckdOf n = s.ckdOf n) ∧
  t.crc16 = s.crc16 ∧ t.crc32 = s.crc32 ∧ t.cobsd = s.cobsd ∧ t.cobse = s.cobse ∧ t.cke = s.cke

/-- Only the CKE instance presented at may differ. -/
def onlyCke (s t : State) : Prop :=
  sameHost s t ∧ (∀ n, n ≠ s.port → t.ckeOf n = s.ckeOf n) ∧
  t.crc16 = s.crc16 ∧ t.crc32 = s.crc32 ∧ t.cobsd = s.cobsd ∧ t.cobse = s.cobse ∧ t.ckd = s.ckd

/-! ## One instance of any kind -/

/-- The instance `n` of a unit kind, whole. -/
inductive UnitView where
  | crc16 (u : Crc16Unit)
  | crc32 (u : Crc32Unit)
  | cobsd (u : CobsdUnit)
  | cobse (u : CobseUnit)
  | ckd (u : CkdUnit)
  | cke (u : CkeUnit)
  deriving DecidableEq, Repr

/-- The instance `n` of the kind `k`. -/
def State.view (s : State) (k : UnitKind) (n : Nat) : UnitView :=
  match k with
  | .crc16 => .crc16 (s.crc16Of n)
  | .crc32 => .crc32 (s.crc32Of n)
  | .cobsd => .cobsd (s.cobsdOf n)
  | .cobse => .cobse (s.cobseOf n)
  | .ckd => .ckd (s.ckdOf n)
  | .cke => .cke (s.ckeOf n)

/-- Every event the instance has put out, oldest first. -/
def State.outOf (s : State) (k : UnitKind) (n : Nat) : List Event :=
  match k with
  | .crc16 => (s.crc16Of n).out
  | .crc32 => (s.crc32Of n).out
  | .cobsd => (s.cobsdOf n).out
  | .cobse => (s.cobseOf n).out
  | .ckd => (s.ckdOf n).out
  | .cke => (s.ckeOf n).out

/-- A safe run in the spec's sense: a step that takes place, or the refusal of a word that spells no command; never a fault and
never an instruction without meaning (00_scope.md R8, R12). -/
def safeOutcome (o : Host.Outcome State Fault Refusal) : Prop :=
  (∃ t, o = .next t) ∨ (∃ why, o = .refused (.illegalCommand why))

end Sys2Proof.Machine
end

