-- ==== Sys2Proof/Certificates/Slice0/Obligations.lean ====
section
/-! DEFINITION. The statements for the provers: what the numbered rules of spec/ say of this machine. A statement reads buffers one
byte at a time through `Memory.read`, instances through `State.crc16Of` and its like, and events through what a command appends to
an instance's `out` (log 2). "The rest" of the machine is said by the frames of Safety.lean. Where a docstring says "the spec's own
inference", the spec marks the rule [derived] or "from general knowledge". -/

open Sys2Proof Sys2Proof.Machine

/-! ## Command words (30_encoding.md) -/

/-- R70, R72, R73: a word decodes to a command exactly when it is that command's encoding. So every operand value comes back, no
word has two meanings and no command two words. -/
def Obligations.WordDecodesIffItIsTheEncoding : Prop :=
  ∀ (w : CommandWord) (i : Instr), decode w = .ok i ↔ encode i = w

/-- Rows of 95_test_vectors.md section 2.6 and of R72, one for each unit (a sanity check on words written out from the table). -/
def Obligations.ListedWordsDecodeAsTabulated : Prop :=
  decode 0x0000#16 = .ok .crc16Rst ∧ decode 0x01FF#16 = .ok (.crc16Upd 0xFF#8) ∧
  decode 0x0201#16 = .ok (.crc16Fin 0x01#8) ∧ decode 0x02FF#16 = .ok (.crc16Fin 0xFF#8) ∧
  decode 0x1300#16 = .ok .crc32Vfy ∧ decode 0x2100#16 = .ok (.cobsdByte 0x00#8) ∧
  decode 0x3100#16 = .ok (.cobseData 0x00#8) ∧ decode 0x3200#16 = .ok .cobseDlm ∧
  decode 0x41F0#16 = .ok (.ckdByte 0xF0#8) ∧ decode 0x5200#16 = .ok .ckeDlm

/-- R74: a presented word for which one of the rule's three conditions holds is refused (no state, no event); every other word
spells a command, and FIN with `f` in 2 to 255 is among these. -/
def Obligations.WordSpellingNoCommandIsRefused : Prop :=
  (∀ (s : State) (n : Nat) (w : CommandWord) (rest : List HostInput), s.stream = .command n w :: rest →
    (let unit := w.toNat / 4096
     let op := w.toNat / 256 % 16
     let data := w.toNat % 256
     let listed : List (Nat × List Nat) :=
       [(0, [0, 1, 2, 3]), (1, [0, 1, 2, 3]), (2, [0, 1]), (3, [1, 2]), (4, [0, 1]), (5, [1, 2])]
     let mustBeZero : List (Nat × Nat) :=
       [(0, 0), (0, 3), (1, 0), (1, 3), (2, 0), (3, 2), (4, 0), (5, 2)]
     if 6 ≤ unit ∨ (∀ row ∈ listed, row.1 = unit → op ∉ row.2) ∨ ((unit, op) ∈ mustBeZero ∧ data ≠ 0) then
       ∃ why, step s = .refused (.illegalCommand why)
     else ∃ i, decode w = .ok i)) ∧
  (∀ f : Byte, decode (0x0200#16 + f.setWidth 16) = .ok (.crc16Fin f) ∧
    decode (0x1200#16 + f.setWidth 16) = .ok (.crc32Fin f))

/-! ## The step and the host's side -/

/-- R8, R11, R70: a presented word that decodes runs as its command, at the instance it is presented to and with the word taken off
the host's list. Every term of `Instr` is well-formed. (The host's list in State is the model's own: log 1.) -/
def Obligations.StepRunsTheDecodedCommand : Prop :=
  ∀ (s : State) (n : Nat) (w : CommandWord) (rest : List HostInput) (i : Instr),
    s.stream = .command n w :: rest → decode w = .ok i →
    step s = exec i { s with port := n, stream := rest }

/-- With no input to take nothing happens: "a unit between commands is idle by construction and keeps all its state" (R234; the
idle step itself is the model's choice, log 1). -/
def Obligations.IdleStepChangesNothing : Prop :=
  ∀ s : State, s.stream = [] → step s = .next s

/-- R8: every command takes a next state in every state. -/
def Obligations.EveryCommandCompletes : Prop :=
  ∀ (i : Instr) (s : State), ∃ t, exec i s = .next t

/-- R250 with R34 to R38, R252: the hardware reset puts every instance of every unit in its reset state; buffers, parameters and
emitted events stay (log 10), and nothing is emitted. -/
def Obligations.HardwareResetReachesEveryInstance : Prop :=
  ∀ (s : State) (rest : List HostInput), s.stream = .hardwareReset :: rest →
    ∃ t, step s = .next t ∧ t.stream = rest ∧ t.port = s.port ∧
      ∀ n,
        t.crc16Of n = { s.crc16Of n with reg := 0xFFFF#16 } ∧
        t.crc32Of n = { s.crc32Of n with reg := 0xFFFFFFFF#32 } ∧
        t.cobsdOf n = { s.cobsdOf n with
          dec := { (s.cobsdOf n).dec with
            blockStart := 255, blockIndex := 255, blockLength := 255, packetIndex := 0, totalLength := 0 } } ∧
        t.cobseOf n = { s.cobseOf n with enc := { (s.cobseOf n).enc with index := 0 } } ∧
        t.ckdOf n = { s.ckdOf n with
          dec := { (s.ckdOf n).dec with
            blockStart := 255, blockIndex := 255, blockLength := 255, packetIndex := 0, totalLength := 0 } } ∧
        t.ckeOf n = { s.ckeOf n with
          enc := { (s.ckeOf n).enc with index := 0 }, crc := 0xFFFF#16, count := 0 }

/-- R34, R35, R36, R38 at the machine's own reset state, for every instance. -/
def Obligations.ResetStateHoldsTheResetValues : Prop :=
  ∀ n, (State.reset.crc16Of n).reg = 0xFFFF#16 ∧ (State.reset.crc32Of n).reg = 0xFFFFFFFF#32 ∧
    (State.reset.cobsdOf n).dec.atReset ∧ (State.reset.cobseOf n).enc.index = 0 ∧
    (State.reset.ckdOf n).dec.atReset ∧ (State.reset.ckdOf n).forward = false ∧ (State.reset.ckeOf n).atReset

/-- R253(a), R32: creating a decoder instance gives it the capacity (and, for CKD, the forwarding parameter) the host supplies and
the reset state, and touches no other instance. (The host input itself and its keeping of `out` are the model's: log 4.) -/
def Obligations.CreatedDecoderHasItsParameters : Prop :=
  ∀ (s : State) (n cap : Nat) (fwd : Bool) (rest : List HostInput),
    (s.stream = .createCobsd n cap :: rest →
      ∃ t, step s = .next t ∧ t.port = s.port ∧ (t.cobsdOf n).dec.cap = cap ∧ (t.cobsdOf n).dec.atReset ∧
        (t.cobsdOf n).out = (s.cobsdOf n).out ∧
        onlyCobsd { s with port := n, stream := rest } { t with port := n }) ∧
    (s.stream = .createCkd n cap fwd :: rest →
      ∃ t, step s = .next t ∧ t.port = s.port ∧ (t.ckdOf n).dec.cap = cap ∧ (t.ckdOf n).forward = fwd ∧
        (t.ckdOf n).dec.atReset ∧ (t.ckdOf n).out = (s.ckdOf n).out ∧
        onlyCkd { s with port := n, stream := rest } { t with port := n })

/-- R11, R59: commands on the host's list to one instance are carried out in that order, each to completion; running the list is
running the commands one after another. -/
def Obligations.PresentedCommandsRunInOrder : Prop :=
  ∀ (is : List Instr) (s : State) (n : Nat) (rest : List HostInput), is ≠ [] →
    s.stream = is.map (fun i => .command n (encode i)) ++ rest →
    Host.Core.run Sys2Proof.core is.length s = execAll is { s with port := n, stream := rest }

/-- R9: a chunk runs its commands one after another, each in the state the one before left, and the events it appends are the
concatenation, in order, of the event lists of its commands; a zero-length chunk changes nothing. R113, first law (the spec's own
inference; polynomials: log 12): UPDATE of `a` followed by UPDATE of `b` is UPDATE of `a ++ b`, leaves the register fed with `a` and
then with `b`, and puts nothing out. (That `out` holds the events is the model's: log 2.) -/
def Obligations.ChunksConcatenate : Prop :=
  (∀ (k : UnitKind) (is : List Instr) (s : State), (∀ i ∈ is, i.unit = k) →
    ∃ (after : Nat → State) (evs : Nat → List Event),
      after 0 = s ∧
      (∀ j i, is[j]? = some i →
        exec i (after j) = .next (after (j + 1)) ∧
        (after (j + 1)).outOf k s.port = (after j).outOf k s.port ++ evs j) ∧
      execAll is s = .next (after is.length) ∧
      (after is.length).outOf k s.port = s.outOf k s.port ++ (List.range is.length).flatMap evs) ∧
  (∀ s : State, execAll [] s = .next s) ∧
  (∀ (a b : List Byte) (s : State), ∃ t u,
    execAll (a.map .crc16Upd) s = .next t ∧ execAll (b.map .crc16Upd) t = .next u ∧
    execAll ((a ++ b).map .crc16Upd) s = .next u ∧
    (u.crc16Of s.port).reg = crcFeed 0x8408#16 (crcFeed 0x8408#16 (s.crc16Of s.port).reg a) b ∧
    (u.crc16Of s.port).out = (s.crc16Of s.port).out ∧ onlyCrc16 s u) ∧
  (∀ (a b : List Byte) (s : State), ∃ t u,
    execAll (a.map .crc32Upd) s = .next t ∧ execAll (b.map .crc32Upd) t = .next u ∧
    execAll ((a ++ b).map .crc32Upd) s = .next u ∧
    (u.crc32Of s.port).reg = crcFeed 0xEDB88320#32 (crcFeed 0xEDB88320#32 (s.crc32Of s.port).reg a) b ∧
    (u.crc32Of s.port).out = (s.crc32Of s.port).out ∧ onlyCrc32 s u)

/-! ## CRC accumulators (40_crc_accumulator.md) -/

/-- R104: word 0x0000; the register becomes 0xFFFF whatever it was; no event. -/
def Obligations.Crc16RstSetsAllOnes : Prop :=
  decode 0x0000#16 = .ok .crc16Rst ∧
  ∀ s : State, ∃ t, exec .crc16Rst s = .next t ∧ (t.crc16Of s.port).reg = 0xFFFF#16 ∧
    (t.crc16Of s.port).out = (s.crc16Of s.port).out ∧ onlyCrc16 s t

/-- R105 with R100 (polynomial: log 12): word 0x0100 + b; the register takes the byte step, the eight shifts of which are written
out here; no event. -/
def Obligations.Crc16UpdFoldsTheByte : Prop :=
  (∀ b : Byte, decode (0x0100#16 + b.setWidth 16) = .ok (.crc16Upd b)) ∧
  ∀ (b : Byte) (s : State),
    let shift := fun r : BitVec 16 => if r.getLsbD 0 then (r >>> 1) ^^^ 0x8408#16 else r >>> 1
    ∃ t, exec (.crc16Upd b) s = .next t ∧
      (t.crc16Of s.port).reg =
        Nat.iterate shift 8 ((s.crc16Of s.port).reg ^^^ b.setWidth 16) ∧
      (t.crc16Of s.port).out = (s.crc16Of s.port).out ∧ onlyCrc16 s t

/-- R106: word 0x0200 + f; exactly one of VALUE, BYTES (low byte first) and ERR(InvalidFormat) is emitted, and the register is not
written in any of the three cases. -/
def Obligations.Crc16FinReportsTheChecksum : Prop :=
  (∀ f : Byte, decode (0x0200#16 + f.setWidth 16) = .ok (.crc16Fin f)) ∧
  ∀ (f : Byte) (s : State),
    let v := (s.crc16Of s.port).reg ^^^ 0xFFFF#16
    ∃ t, exec (.crc16Fin f) s = .next t ∧ (t.crc16Of s.port).reg = (s.crc16Of s.port).reg ∧
      (t.crc16Of s.port).out = (s.crc16Of s.port).out ++
        [if f = 0 then .value16 v
         else if f = 1 then .bytes [BitVec.ofNat 8 v.toNat, BitVec.ofNat 8 (v.toNat / 256)]
         else .err .invalidFormat] ∧
      onlyCrc16 s t

/-- R107 (residue: log 12): word 0x0300; BOOL says whether the register is 0xF0B8; the register is not written, nothing is fed. -/
def Obligations.Crc16VfyComparesWithTheResidue : Prop :=
  decode 0x0300#16 = .ok .crc16Vfy ∧
  (∀ s : State, ∃ t, exec .crc16Vfy s = .next t ∧ (t.crc16Of s.port).reg = (s.crc16Of s.port).reg ∧
    (t.crc16Of s.port).out = (s.crc16Of s.port).out ++ [.bool ((s.crc16Of s.port).reg == 0xF0B8#16)] ∧
    onlyCrc16 s t)

/-- R108: as R104 on 32 bits, word 0x1000. -/
def Obligations.Crc32RstSetsAllOnes : Prop :=
  decode 0x1000#16 = .ok .crc32Rst ∧
  ∀ s : State, ∃ t, exec .crc32Rst s = .next t ∧ (t.crc32Of s.port).reg = 0xFFFFFFFF#32 ∧
    (t.crc32Of s.port).out = (s.crc32Of s.port).out ∧ onlyCrc32 s t

/-- R109 with R100 (polynomial: log 12): as R105 on 32 bits, word 0x1100 + b. -/
def Obligations.Crc32UpdFoldsTheByte : Prop :=
  (∀ b : Byte, decode (0x1100#16 + b.setWidth 16) = .ok (.crc32Upd b)) ∧
  ∀ (b : Byte) (s : State),
    let shift := fun r : BitVec 32 => if r.getLsbD 0 then (r >>> 1) ^^^ 0xEDB88320#32 else r >>> 1
    ∃ t, exec (.crc32Upd b) s = .next t ∧
      (t.crc32Of s.port).reg =
        Nat.iterate shift 8 ((s.crc32Of s.port).reg ^^^ b.setWidth 32) ∧
      (t.crc32Of s.port).out = (s.crc32Of s.port).out ∧ onlyCrc32 s t

/-- R110: as R106 with four bytes, word 0x1200 + f. -/
def Obligations.Crc32FinReportsTheChecksum : Prop :=
  (∀ f : Byte, decode (0x1200#16 + f.setWidth 16) = .ok (.crc32Fin f)) ∧
  ∀ (f : Byte) (s : State),
    let v := (s.crc32Of s.port).reg ^^^ 0xFFFFFFFF#32
    ∃ t, exec (.crc32Fin f) s = .next t ∧ (t.crc32Of s.port).reg = (s.crc32Of s.port).reg ∧
      (t.crc32Of s.port).out = (s.crc32Of s.port).out ++
        [if f = 0 then .value32 v
         else if f = 1 then .bytes [BitVec.ofNat 8 v.toNat, BitVec.ofNat 8 (v.toNat / 256),
           BitVec.ofNat 8 (v.toNat / 65536), BitVec.ofNat 8 (v.toNat / 16777216)]
         else .err .invalidFormat] ∧
      onlyCrc32 s t

/-- R111 (residue: log 12): as R107 on 32 bits, word 0x1300, residue 0xDEBB20E3. -/
def Obligations.Crc32VfyComparesWithTheResidue : Prop :=
  decode 0x1300#16 = .ok .crc32Vfy ∧
  (∀ s : State, ∃ t, exec .crc32Vfy s = .next t ∧ (t.crc32Of s.port).reg = (s.crc32Of s.port).reg ∧
    (t.crc32Of s.port).out = (s.crc32Of s.port).out ++ [.bool ((s.crc32Of s.port).reg == 0xDEBB20E3#32)] ∧
    onlyCrc32 s t)

/-- The meaning of VFY that R107 and R111 derive from the byte step (the spec's own inference; polynomials and residues: log 12):
after RST and UPDATE of any message, let `seq` be what FIN SEQ puts out; UPDATE of a suffix of that length and VFY put out
BOOL(true) if the suffix is `seq` and BOOL(false) if it is any other, and the register is the residue in the first case only. -/
def Obligations.SuffixVerifiesIffItIsTheFinValue : Prop :=
  (∀ (s : State) (message : List Byte), ∃ u seq,
    execAll (.crc16Rst :: message.map .crc16Upd ++ [.crc16Fin 1]) s = .next u ∧
    (u.crc16Of s.port).out = (s.crc16Of s.port).out ++ [.bytes seq] ∧
    seq = leBytes16 (crcFeed 0x8408#16 0xFFFF#16 message ^^^ 0xFFFF#16) ∧
    ∀ x y : Byte, ∃ t,
      execAll (.crc16Rst :: message.map .crc16Upd ++ [.crc16Upd x, .crc16Upd y, .crc16Vfy]) s = .next t ∧
      (t.crc16Of s.port).reg = crcFeed 0x8408#16 0xFFFF#16 (message ++ [x, y]) ∧
      ((t.crc16Of s.port).reg = 0xF0B8#16 ↔ [x, y] = seq) ∧
      (t.crc16Of s.port).out = (s.crc16Of s.port).out ++ [.bool (decide ([x, y] = seq))] ∧ onlyCrc16 s t) ∧
  (∀ (s : State) (message : List Byte), ∃ u seq,
    execAll (.crc32Rst :: message.map .crc32Upd ++ [.crc32Fin 1]) s = .next u ∧
    (u.crc32Of s.port).out = (s.crc32Of s.port).out ++ [.bytes seq] ∧
    seq = leBytes32 (crcFeed 0xEDB88320#32 0xFFFFFFFF#32 message ^^^ 0xFFFFFFFF#32) ∧
    ∀ x y z v : Byte, ∃ t,
      execAll (.crc32Rst :: message.map .crc32Upd ++
        [.crc32Upd x, .crc32Upd y, .crc32Upd z, .crc32Upd v, .crc32Vfy]) s = .next t ∧
      (t.crc32Of s.port).reg = crcFeed 0xEDB88320#32 0xFFFFFFFF#32 (message ++ [x, y, z, v]) ∧
      ((t.crc32Of s.port).reg = 0xDEBB20E3#32 ↔ [x, y, z, v] = seq) ∧
      (t.crc32Of s.port).out = (s.crc32Of s.port).out ++ [.bool (decide ([x, y, z, v] = seq))] ∧ onlyCrc32 s t)

/-- R113, second law (the spec's own inference): the byte step is linear over XOR, for every width and polynomial. -/
def Obligations.CrcStepIsLinear : Prop :=
  ∀ (w : Nat) (poly r1 r2 : BitVec w) (b1 b2 : Byte),
    crcStep poly (r1 ^^^ r2) (b1 ^^^ b2) = crcStep poly r1 b1 ^^^ crcStep poly r2 b2

/-- R113, third law (the spec's own inference): with the polynomial's top bit set the byte step is a bijection of the register for
each byte, and injective in the byte for each register. -/
def Obligations.CrcStepIsABijection : Prop :=
  ∀ (w : Nat) (poly : BitVec w), 8 ≤ w → poly.getLsbD (w - 1) = true →
    (∀ (b : Byte), Function.Bijective fun reg => crcStep poly reg b) ∧
    (∀ reg : BitVec w, Function.Injective fun b => crcStep poly reg b)

/-- R103, R113 (the spec's own inference; polynomial and residue: log 12): a CRC16 instance reset, fed any message and asked for
its BYTES verifies after being fed those bytes. -/
def Obligations.Crc16VerifiesItsOwnBytes : Prop :=
  ∀ (s : State) (message : List Byte), ∃ t seq,
    execAll (.crc16Rst :: message.map .crc16Upd ++ [.crc16Fin 1]) s = .next t ∧
    (t.crc16Of s.port).out = (s.crc16Of s.port).out ++ [.bytes seq] ∧ seq.length = 2 ∧
    ∃ t', execAll (seq.map .crc16Upd ++ [.crc16Vfy]) t = .next t' ∧ (t'.crc16Of s.port).reg = 0xF0B8#16 ∧
      (t'.crc16Of s.port).out = (t.crc16Of s.port).out ++ [.bool true] ∧ onlyCrc16 s t'

/-- R103, R113 (the spec's own inference; polynomial and residue: log 12): the same for CRC32. -/
def Obligations.Crc32VerifiesItsOwnBytes : Prop :=
  ∀ (s : State) (message : List Byte), ∃ t seq,
    execAll (.crc32Rst :: message.map .crc32Upd ++ [.crc32Fin 1]) s = .next t ∧
    (t.crc32Of s.port).out = (s.crc32Of s.port).out ++ [.bytes seq] ∧ seq.length = 4 ∧
    ∃ t', execAll (seq.map .crc32Upd ++ [.crc32Vfy]) t = .next t' ∧ (t'.crc32Of s.port).reg = 0xDEBB20E3#32 ∧
      (t'.crc32Of s.port).out = (t.crc32Of s.port).out ++ [.bool true] ∧ onlyCrc32 s t'

/-- R113, last law (the spec's own inference; polynomials and residues: log 12), and more: in a byte sequence that verifies,
changing any one byte (so any one bit) makes verification fail. -/
def Obligations.ChangedByteIsDetected : Prop :=
  ∀ (before after : List Byte) (b b' : Byte), b ≠ b' →
    (crcFeed 0x8408#16 0xFFFF#16 (before ++ b :: after) = 0xF0B8#16 →
      crcFeed 0x8408#16 0xFFFF#16 (before ++ b' :: after) ≠ 0xF0B8#16) ∧
    (crcFeed 0xEDB88320#32 0xFFFFFFFF#32 (before ++ b :: after) = 0xDEBB20E3#32 →
      crcFeed 0xEDB88320#32 0xFFFFFFFF#32 (before ++ b' :: after) ≠ 0xDEBB20E3#32)

/-- R112 (the spec's own inference): the table form, for every register, byte and polynomial of at least 8 bits; and the entries the
rule prints. -/
def Obligations.TableFormEqualsTheBitLoop : Prop :=
  (∀ (w : Nat) (poly reg : BitVec w) (b : Byte), 8 ≤ w →
    crcStep poly reg b =
      crcStep poly 0 ((reg ^^^ b.setWidth w).setWidth 8) ^^^ (reg >>> 8)) ∧
  [0, 1, 2, 3, 4, 5, 6, 7, 255].map (fun i => crcStep 0x8408#16 0 (BitVec.ofNat 8 i)) =
    [0x0000#16, 0x1189#16, 0x2312#16, 0x329B#16, 0x4624#16, 0x57AD#16, 0x6536#16, 0x74BF#16, 0x0F78#16] ∧
  [0, 1, 2, 3, 4, 5, 6, 7, 255].map (fun i => crcStep 0xEDB88320#32 0 (BitVec.ofNat 8 i)) =
    [0x00000000#32, 0x77073096#32, 0xEE0E612C#32, 0x990951BA#32, 0x076DC419#32, 0x706AF48F#32, 0xE963A535#32,
      0x9E6495A3#32, 0x2D02EF8D#32]

/-- R114 (the spec's own inference; log 12): a polynomial that reproduces the source's vector (`00` from 0xFFFF gives 0x0F87) and
has bit 15 set is 0x8408, and 0x8408 does reproduce it. -/
def Obligations.Crc16PolynomialIsForcedByTheVector : Prop :=
  crcStep 0x8408#16 0xFFFF#16 0x00#8 = 0x0F87#16 ∧
  ∀ poly : BitVec 16, crcStep poly 0xFFFF#16 0x00#8 = 0x0F87#16 → poly.getLsbD 15 = true → poly = 0x8408#16

/-- R21, last sentence (the spec's own inference; polynomial: log 12): every 16-bit value is reached in the register from reset by
some two bytes. -/
def Obligations.EveryCrc16RegisterIsReachable : Prop :=
  ∀ (s : State) (v : BitVec 16), ∃ x y t,
    execAll [.crc16Rst, .crc16Upd x, .crc16Upd y] s = .next t ∧ (t.crc16Of s.port).reg = v

/-- R52: the byte sequences are little-endian: the first byte is the lowest, and they give the value back. -/
def Obligations.ByteSequencesAreLittleEndian : Prop :=
  (∀ v : BitVec 16, ∃ a b, leBytes16 v = [a, b] ∧ v.toNat = a.toNat + 256 * b.toNat) ∧
  (∀ v : BitVec 32, ∃ a b c e, leBytes32 v = [a, b, c, e] ∧
    v.toNat = a.toNat + 256 * b.toNat + 65536 * c.toNat + 16777216 * e.toNat)

/-! ## COBS decoder (41_cobs_decoder.md) -/

/-- R130: word 0x2000; the five cursors take their reset values in every state, the buffers and the capacity are not written, no
event. -/
def Obligations.CobsdRstResetsTheCursors : Prop :=
  decode 0x2000#16 = .ok .cobsdRst ∧
  ∀ s : State, ∃ t, exec .cobsdRst s = .next t ∧ (t.cobsdOf s.port).dec.atReset ∧
    (t.cobsdOf s.port).dec.blk = (s.cobsdOf s.port).dec.blk ∧ (t.cobsdOf s.port).dec.pkt = (s.cobsdOf s.port).dec.pkt ∧
    (t.cobsdOf s.port).dec.cap = (s.cobsdOf s.port).dec.cap ∧
    (t.cobsdOf s.port).out = (s.cobsdOf s.port).out ∧ onlyCobsd s t

/-- R132: a non-zero byte inside a block is stored at `blk[blockIndex]` and advances it; nothing else changes, no event. -/
def Obligations.LiteralIsStoredInTheBlock : Prop :=
  ∀ (s : State) (b : Byte),
    let d := (s.cobsdOf s.port).dec
    d.blockIndex < d.blockLength → b ≠ 0 →
    ∃ t, exec (.cobsdByte b) s = .next t ∧
      (let d' := (t.cobsdOf s.port).dec
       d'.blk.read d.blockIndex = b ∧ (∀ i, i ≠ d.blockIndex → d'.blk.read i = d.blk.read i) ∧ d'.pkt = d.pkt ∧
       d'.blockIndex = d.blockIndex + 1 ∧ d'.blockStart = d.blockStart ∧ d'.blockLength = d.blockLength ∧
       d'.packetIndex = d.packetIndex ∧ d'.totalLength = d.totalLength ∧ d'.cap = d.cap) ∧
      (t.cobsdOf s.port).out = (s.cobsdOf s.port).out ∧ onlyCobsd s t

/-- R133, R222: a zero inside a block gives the error alone and the reset; the buffers are not written. -/
def Obligations.ZeroInsideABlockIsUnexpected : Prop :=
  ∀ s : State,
    let d := (s.cobsdOf s.port).dec
    d.blockIndex < d.blockLength →
    ∃ t, exec (.cobsdByte 0) s = .next t ∧ (t.cobsdOf s.port).dec.atReset ∧
      (t.cobsdOf s.port).dec.blk = d.blk ∧ (t.cobsdOf s.port).dec.pkt = d.pkt ∧ (t.cobsdOf s.port).dec.cap = d.cap ∧
      (t.cobsdOf s.port).out = (s.cobsdOf s.port).out ++ [.err .unexpectedZero] ∧ onlyCobsd s t

/-- R134, R135, R136 in R131's order: a length prefix at a control position. `z` says whether an implicit zero is put (previous
prefix not 255), `n` counts the pending bytes with it, `c` those that still fit. -/
def Obligations.LengthPrefixFlushesAndBeginsABlock : Prop :=
  ∀ (s : State) (b : Byte),
    let d := (s.cobsdOf s.port).dec
    ¬ d.blockIndex < d.blockLength → b ≠ 0 →
    let z := d.blockLength ≠ 255
    let n := (if z then d.blockIndex + 1 else d.blockIndex) - d.blockStart
    let c := min n (d.cap - d.packetIndex)
    let blk' := fun i => if z ∧ i = d.blockIndex then (0x00#8 : Byte) else d.blk.read i
    ∃ t, exec (.cobsdByte b) s = .next t ∧
      (let d' := (t.cobsdOf s.port).dec
       (∀ i, d'.blk.read i = blk' i) ∧
       (∀ i, d'.pkt.read i =
         if d.packetIndex ≤ i ∧ i < d.packetIndex + c then blk' (d.blockStart + (i - d.packetIndex)) else d.pkt.read i) ∧
       d'.packetIndex = d.packetIndex + c ∧ d'.totalLength = d.totalLength + n ∧
       d'.blockLength = b.toNat ∧ d'.blockStart = 1 ∧ d'.blockIndex = 1 ∧ d'.cap = d.cap) ∧
      (t.cobsdOf s.port).out = (s.cobsdOf s.port).out ++ (if n = 0 then [] else [.block c]) ∧ onlyCobsd s t

/-- R135, R137: the delimiter at a control position. The pending bytes are flushed with no implicit zero; PACKET_END with the total
comes next, then the packet if all of it fitted, Overflow with the total if not, nothing if it is empty; then the reset. -/
def Obligations.DelimiterEndsThePacket : Prop :=
  ∀ s : State,
    let d := (s.cobsdOf s.port).dec
    ¬ d.blockIndex < d.blockLength →
    let n := d.blockIndex - d.blockStart
    let c := min n (d.cap - d.packetIndex)
    let total := d.totalLength + n
    ∃ t, exec (.cobsdByte 0) s = .next t ∧
      (let d' := (t.cobsdOf s.port).dec
       d'.atReset ∧ d'.blk = d.blk ∧ d'.cap = d.cap ∧
       (∀ i, d'.pkt.read i =
         if d.packetIndex ≤ i ∧ i < d.packetIndex + c then d.blk.read (d.blockStart + (i - d.packetIndex))
         else d.pkt.read i) ∧
       (t.cobsdOf s.port).out = (s.cobsdOf s.port).out ++ (if n = 0 then [] else [.block c]) ++ [.packetEnd total] ++
         (if total = 0 then []
          else if total = d.packetIndex + c then [.packet ((List.range (d.packetIndex + c)).map d'.pkt.read)]
          else [.err (.overflow total)])) ∧
      onlyCobsd s t

/-- R35: after every byte 00, whether it ends a packet or is unexpected, after COBSD.RST and after the hardware reset, the five
cursors have their reset values. -/
def Obligations.ZeroByteAlwaysResetsTheCursors : Prop :=
  (∀ s : State, ∃ t, exec (.cobsdByte 0) s = .next t ∧ (t.cobsdOf s.port).dec.atReset) ∧
  (∀ s : State, ∃ t, exec .cobsdRst s = .next t ∧ (t.cobsdOf s.port).dec.atReset) ∧
  (∀ (s : State) (rest : List HostInput), s.stream = .hardwareReset :: rest →
    ∃ t, step s = .next t ∧ ∀ n, (t.cobsdOf n).dec.atReset) ∧
  (∀ n, (State.reset.cobsdOf n).dec.atReset)

/-- R138 (the spec's own inference): the possible event lists of one COBSD.BYTE, in every state that meets the invariants of R24. -/
def Obligations.CobsdByteEventLists : Prop :=
  ∀ (s : State) (b : Byte),
    let d := (s.cobsdOf s.port).dec
    d.Inv →
    ∃ t evs, exec (.cobsdByte b) s = .next t ∧ (t.cobsdOf s.port).out = (s.cobsdOf s.port).out ++ evs ∧
      (d.blockIndex < d.blockLength → b ≠ 0 → evs = []) ∧
      (d.blockIndex < d.blockLength → b = 0 → evs = [.err .unexpectedZero]) ∧
      (d.blockIndex = d.blockLength → b ≠ 0 → evs = [] ∨ ∃ c, c ≤ 254 ∧ evs = [.block c]) ∧
      (d.blockIndex = d.blockLength → b = 0 →
        ∃ blocks total last, evs = blocks ++ [.packetEnd total] ++ last ∧
          (blocks = [] ∨ ∃ c, c ≤ 254 ∧ blocks = [.block c]) ∧
          (total = 0 → last = []) ∧
          (0 < total → total ≤ d.cap → ∃ p, p.length = total ∧ last = [.packet p]) ∧
          (d.cap < total → last = [.err (.overflow total)]))

/-- R141 (the spec's own inference): the transition table of the control state, row by row. -/
def Obligations.CobsdControlTransitions : Prop :=
  ∀ (s : State) (b : Byte),
    let d := (s.cobsdOf s.port).dec
    d.Inv →
    ∃ t, exec (.cobsdByte b) s = .next t ∧
      (let d' := (t.cobsdOf s.port).dec
       (b = 0 → d'.atControl = true ∧ d'.blockLength = 255 ∧ d'.atReset) ∧
       (d.atControl = true → b = 1 → d'.atControl = true ∧ d'.blockLength = 1) ∧
       (d.atControl = true → 2 ≤ b.toNat →
         d'.inBlock = true ∧ d'.blockLength = b.toNat ∧ d'.remaining = b.toNat - 1) ∧
       (d.inBlock = true → 2 ≤ d.remaining → b ≠ 0 →
         d'.inBlock = true ∧ d'.blockLength = d.blockLength ∧ d'.remaining = d.remaining - 1) ∧
       (d.inBlock = true → d.remaining = 1 → b ≠ 0 → d'.atControl = true ∧ d'.blockLength = d.blockLength))

/-- R139 (the spec's own inference): from the reset cursors, whatever the buffers hold, the bytes of a framed packet (any legal
blocks, then 00) give one BLOCK per block that contributes a byte, then PACKET_END with the packet's length, then the packet of
R81 if it fits, and the reset cursors. -/
def Obligations.DecoderReadsEveryFramedPacket : Prop :=
  ∀ (s : State) (blocks : List (List Byte)),
    (s.cobsdOf s.port).dec.atReset → (∀ p ∈ blocks, Wire.blockOk p = true) →
    ∃ t, execAll ((Wire.body blocks ++ [0x00#8]).map .cobsdByte) s = .next t ∧
      (t.cobsdOf s.port).dec.atReset ∧
      (t.cobsdOf s.port).out = (s.cobsdOf s.port).out ++
        Wire.blockEvents (s.cobsdOf s.port).dec.cap 0 (Wire.pieces blocks) ++
        Wire.endEvents (s.cobsdOf s.port).dec.cap (Wire.packet blocks) ∧
      onlyCobsd s t

/-- R139 (the spec's own inference, and the source's round-trip property): what a COBSE emits for a payload and its delimiter, fed
to a COBSD, gives the payload back as the one packet when it fits the packet buffer. -/
def Obligations.CobsRoundTrip : Prop :=
  ∀ (s : State) (payload : List Byte),
    (s.cobseOf s.port).enc.index = 0 → (s.cobsdOf s.port).dec.atReset →
    1 ≤ payload.length → payload.length ≤ (s.cobsdOf s.port).dec.cap →
    ∃ t wire, execAll (payload.map .cobseData ++ [.cobseDlm]) s = .next t ∧
      (t.cobseOf s.port).out = (s.cobseOf s.port).out ++ wire ∧
      ∃ t' evs, execAll ((wireBytes wire).map .cobsdByte) t = .next t' ∧
        (t'.cobsdOf s.port).dec.atReset ∧
        (t'.cobsdOf s.port).out = (s.cobsdOf s.port).out ++ evs ++ [.packetEnd payload.length, .packet payload] ∧
        ∀ ev ∈ evs, ∃ c, ev = .block c

/-! ## COBS encoder (42_cobs_encoder.md) -/

/-- R161 with R160: one payload byte. `i` is the next free index of the pending block, 1 if none was pending. A zero flushes the
block; a non-zero byte is stored at `buf[i]`, and flushes it when it is the 254th. -/
def Obligations.CobseDataStoresOrFlushes : Prop :=
  (∀ b : Byte, decode (0x3100#16 + b.setWidth 16) = .ok (.cobseData b)) ∧
  ∀ (s : State) (b : Byte),
    let e := (s.cobseOf s.port).enc
    let i := if e.index = 0 then 1 else e.index
    let payload := (List.range (i - 1)).map fun k => e.buf.read (k + 1)
    ∃ t, exec (.cobseData b) s = .next t ∧
      (let e' := (t.cobseOf s.port).enc
       let out := (s.cobseOf s.port).out
       let out' := (t.cobseOf s.port).out
       if b = 0 then
         e'.index = 1 ∧ e'.buf.read 0 = BitVec.ofNat 8 i ∧ (∀ j, j ≠ 0 → e'.buf.read j = e.buf.read j) ∧
         out' = out ++ [.chunk (BitVec.ofNat 8 i :: payload)]
       else if i = 254 then
         e'.index = 1 ∧ e'.buf.read 0 = 0xFF#8 ∧ e'.buf.read 254 = b ∧
         (∀ j, j ≠ 0 → j ≠ 254 → e'.buf.read j = e.buf.read j) ∧
         out' = out ++ [.chunk (0xFF#8 :: payload ++ [b])]
       else
         e'.index = i + 1 ∧ e'.buf.read i = b ∧ (∀ j, j ≠ i → e'.buf.read j = e.buf.read j) ∧ out' = out) ∧
      onlyCobse s t

/-- R162, R36: the pending block if there is one, then the delimiter, then no block is pending. -/
def Obligations.CobseDlmEmitsBlockAndDelimiter : Prop :=
  decode 0x3200#16 = .ok .cobseDlm ∧
  ∀ s : State,
    let e := (s.cobseOf s.port).enc
    ∃ t, exec .cobseDlm s = .next t ∧ (t.cobseOf s.port).enc.index = 0 ∧
      (let e' := (t.cobseOf s.port).enc
       let out := (s.cobseOf s.port).out
       let out' := (t.cobseOf s.port).out
       if e.index = 0 then e'.buf = e.buf ∧ out' = out ++ [.chunk [0x00#8]]
       else e'.buf.read 0 = BitVec.ofNat 8 e.index ∧ (∀ j, j ≠ 0 → e'.buf.read j = e.buf.read j) ∧
         out' = out ++ [.chunk (BitVec.ofNat 8 e.index :: (List.range (e.index - 1)).map fun k => e.buf.read (k + 1)),
           .chunk [0x00#8]]) ∧
      onlyCobse s t

/-- R164 (the spec's own inference): in every state that meets the encoder's invariant, a DATA command emits no zero byte, and a
DLM command emits exactly one, the last. -/
def Obligations.EncoderEmitsZerosOnlyAsDelimiters : Prop :=
  ∀ (s : State), (s.cobseOf s.port).enc.Inv →
    (∀ b : Byte, ∃ t evs, exec (.cobseData b) s = .next t ∧ (t.cobseOf s.port).out = (s.cobseOf s.port).out ++ evs ∧
      0x00#8 ∉ wireBytes evs) ∧
    (∃ t evs front, exec .cobseDlm s = .next t ∧ (t.cobseOf s.port).out = (s.cobseOf s.port).out ++ evs ∧
      wireBytes evs = front ++ [0x00#8] ∧ 0x00#8 ∉ front)

/-- R165 (the spec's own inference): from the reset state, whatever the buffer holds, the concatenated output for a payload and
DLM is the rule's closed form. -/
def Obligations.EncoderOutputIsTheClosedForm : Prop :=
  ∀ (s : State) (payload : List Byte), (s.cobseOf s.port).enc.index = 0 →
    ∃ t wire, execAll (payload.map .cobseData ++ [.cobseDlm]) s = .next t ∧
      (t.cobseOf s.port).out = (s.cobseOf s.port).out ++ wire ∧ wireBytes wire = Wire.frame payload ∧
      (t.cobseOf s.port).enc.index = 0 ∧ onlyCobse s t

/-- R165 (the spec's own inference): the length of the output and its bound. -/
def Obligations.EncodedLengthFormula : Prop :=
  ∀ payload : List Byte, payload ≠ [] →
    (Wire.frame payload).length = payload.length + 2 + ((Wire.runs payload).map fun r => r.length / 254).sum ∧
    (Wire.frame payload).length ≤ payload.length + payload.length / 254 + 2

/-! ## Checked framer (43_crc16_framer.md) -/

/-- R180: word 0x4000; the inner decoder's cursors are reset, silently. -/
def Obligations.CkdRstResetsTheInnerDecoder : Prop :=
  decode 0x4000#16 = .ok .ckdRst ∧
  ∀ s : State, ∃ t, exec .ckdRst s = .next t ∧ (t.ckdOf s.port).dec.atReset ∧
    (t.ckdOf s.port).dec.blk = (s.ckdOf s.port).dec.blk ∧ (t.ckdOf s.port).dec.pkt = (s.ckdOf s.port).dec.pkt ∧
    (t.ckdOf s.port).dec.cap = (s.ckdOf s.port).dec.cap ∧ (t.ckdOf s.port).forward = (s.ckdOf s.port).forward ∧
    (t.ckdOf s.port).out = (s.ckdOf s.port).out ∧ onlyCkd s t

/-- R181, R183: CKD.BYTE does to its inner decoder what COBSD.BYTE does to a COBSD in the same state, and emits that command's
events in order, with a packet replaced by its check and with BLOCK and PACKET_END left out unless the parameter forwards them. -/
def Obligations.CkdByteChecksTheInnerEvents : Prop :=
  (∀ b : Byte, decode (0x4100#16 + b.setWidth 16) = .ok (.ckdByte b)) ∧
  ∀ (s r : State) (b : Byte), (r.cobsdOf r.port).dec = (s.ckdOf s.port).dec →
    ∃ t r' evs, exec (.cobsdByte b) r = .next r' ∧ (r'.cobsdOf r.port).out = (r.cobsdOf r.port).out ++ evs ∧
      exec (.ckdByte b) s = .next t ∧ (t.ckdOf s.port).dec = (r'.cobsdOf r.port).dec ∧
      (t.ckdOf s.port).forward = (s.ckdOf s.port).forward ∧
      (t.ckdOf s.port).out = (s.ckdOf s.port).out ++ evs.flatMap (fun ev =>
        match ev with
        | .packet p => checkPacket p
        | .block _ => if (s.ckdOf s.port).forward then [ev] else []
        | .packetEnd _ => if (s.ckdOf s.port).forward then [ev] else []
        | _ => [ev]) ∧
      onlyCkd s t

/-- R182, R224, R225, with the meaning R107 derives for the register comparison (the spec's own inference; polynomial and residue:
log 12): a packet of 1 or 2 bytes is too small, without a check; a longer one gives its payload exactly when its last two bytes
are the little-endian FIN value of the bytes before them, and CrcMismatch otherwise. -/
def Obligations.CheckPacketAcceptsExactlyTheRightSuffix : Prop :=
  (∀ p : List Byte, p.length ≤ 2 → checkPacket p = [.err (.tooSmallForCrc16 p.length)]) ∧
  (∀ (payload : List Byte) (x y : Byte), payload ≠ [] →
    checkPacket (payload ++ [x, y]) =
      if [x, y] = leBytes16 (crcFeed 0x8408#16 0xFFFF#16 payload ^^^ 0xFFFF#16) then [.packet payload]
      else [.err .crcMismatch])

/-- R185 (polynomial: log 12): word 0x5100 + b; the inner encoder takes the byte and its events are emitted, the byte is folded
into the running CRC16, and the counter advances. -/
def Obligations.CkeDataEncodesFoldsAndCounts : Prop :=
  (∀ b : Byte, decode (0x5100#16 + b.setWidth 16) = .ok (.ckeData b)) ∧
  ∀ (s r : State) (b : Byte), (r.cobseOf r.port).enc = (s.ckeOf s.port).enc →
    ∃ t r' evs, exec (.cobseData b) r = .next r' ∧ (r'.cobseOf r.port).out = (r.cobseOf r.port).out ++ evs ∧
      exec (.ckeData b) s = .next t ∧ (t.ckeOf s.port).enc = (r'.cobseOf r.port).enc ∧
      (t.ckeOf s.port).crc = crcStep 0x8408#16 (s.ckeOf s.port).crc b ∧
      (t.ckeOf s.port).count = (s.ckeOf s.port).count + 1 ∧
      (t.ckeOf s.port).out = (s.ckeOf s.port).out ++ evs ∧ onlyCke s t

/-- R186: word 0x5200; with a byte counted, the inner encoder takes the low and the high byte of the running CRC XOR 0xFFFF and then
the delimiter; with none it takes the delimiter alone; then the running CRC and the counter are reset. The commands of a COBSE in
the same state say what the inner encoder does. -/
def Obligations.CkeDlmAppendsTheSuffix : Prop :=
  decode 0x5200#16 = .ok .ckeDlm ∧
  ∀ (s r : State), (r.cobseOf r.port).enc = (s.ckeOf s.port).enc →
    let v := (s.ckeOf s.port).crc ^^^ 0xFFFF#16
    let inner : List Instr :=
      if 0 < (s.ckeOf s.port).count then
        [.cobseData (BitVec.ofNat 8 v.toNat), .cobseData (BitVec.ofNat 8 (v.toNat / 256)), .cobseDlm]
      else [.cobseDlm]
    ∃ t r' evs, execAll inner r = .next r' ∧ (r'.cobseOf r.port).out = (r.cobseOf r.port).out ++ evs ∧
      exec .ckeDlm s = .next t ∧ (t.ckeOf s.port).enc = (r'.cobseOf r.port).enc ∧ (t.ckeOf s.port).atReset ∧
      (t.ckeOf s.port).out = (s.ckeOf s.port).out ++ evs ∧ onlyCke s t

/-- R187, R83, with the closed form of R165 (the spec's own inference; polynomial: log 12): from the reset state the concatenated
output of CKE.FRAME is the open delimiter and the frame of the payload with its suffix, none for an empty payload. -/
def Obligations.CheckedFrameOnTheWire : Prop :=
  ∀ (s : State) (payload : List Byte), (s.ckeOf s.port).atReset →
    ∃ t wire, execAll (Pseudo.expand (.ckeFrame payload)) s = .next t ∧
      (t.ckeOf s.port).out = (s.ckeOf s.port).out ++ wire ∧ wireBytes wire = Wire.checkedFrame payload ∧
      (t.ckeOf s.port).atReset ∧ onlyCke s t

/-- R189, R184 (the spec's own inference; polynomial and residue: log 12): what CKE.FRAME emits, fed to a CKD in the reset state
that forwards no notification, gives exactly the payload when payload and suffix fit, Overflow with the packet's length when they
do not, and nothing for an empty payload. -/
def Obligations.CheckedRoundTrip : Prop :=
  ∀ (s : State) (payload : List Byte),
    (s.ckeOf s.port).atReset → (s.ckdOf s.port).dec.atReset → (s.ckdOf s.port).forward = false →
    ∃ t wire, execAll (Pseudo.expand (.ckeFrame payload)) s = .next t ∧
      (t.ckeOf s.port).out = (s.ckeOf s.port).out ++ wire ∧
      ∃ t', execAll ((wireBytes wire).map .ckdByte) t = .next t' ∧ (t'.ckdOf s.port).dec.atReset ∧
        (t'.ckdOf s.port).out = (s.ckdOf s.port).out ++
          (if payload = [] then []
           else if payload.length + 2 ≤ (s.ckdOf s.port).dec.cap then [.packet payload]
           else [.err (.overflow (payload.length + 2))])

/-! ## The whole machine -/

/-- The invariants of R24 (I1 to I4), R26 and R51 (the spec's own inference) and the canonical form of every buffer and bank (log
3, 6): kept by every step. -/
def Obligations.StepKeepsTheInvariants : Prop :=
  ∀ s t : State, s.Inv → step s = .next t → t.Inv

/-- The machine after reset meets them. -/
def Obligations.ResetMeetsTheInvariants : Prop := State.reset.Inv

/-- R58 (the spec's own inference): bytes not written since the cursors were last reset reach no event: machines that differ only
in such bytes stay so at every step and put out the same. -/
def Obligations.StaleBytesReachNoEvent : Prop :=
  ∀ s s' t : State, s.agree s' → step s = .next t → ∃ t', step s' = .next t' ∧ t.agree t'

/-- R8, R10: a command reads and writes only the instance it is presented to: every other instance of every unit stays as it was,
and what happens there depends on nothing else. -/
def Obligations.CommandsTouchOnlyTheirInstance : Prop :=
  ∀ (i : Instr) (s s' : State), s.view i.unit s.port = s'.view i.unit s'.port →
    ∃ t t', exec i s = .next t ∧ exec i s' = .next t' ∧
      t.view i.unit s.port = t'.view i.unit s'.port ∧ t.port = s.port ∧ t.stream = s.stream ∧
      ∀ k n, (k, n) ≠ (i.unit, s.port) → t.view k n = s.view k n

/-- R252, R59: events already emitted are not taken back by any command or hardware reset; they stay in order. That the creation of an
instance keeps the events put out under its number is the model's choice (log 4), as is that `out` holds them (log 2). -/
def Obligations.EmittedEventsStay : Prop :=
  ∀ s t : State, step s = .next t → ∀ k n, s.outOf k n <+: t.outOf k n

/-- R228 (the spec's own inference): one command raises at most one error. -/
def Obligations.AtMostOneErrorPerCommand : Prop :=
  ∀ (i : Instr) (s : State), ∃ t evs, exec i s = .next t ∧
    t.outOf i.unit s.port = s.outOf i.unit s.port ++ evs ∧ (evs.filter Event.isError).length ≤ 1

/-- R220: which command raises which error, and the state afterwards. -/
def Obligations.ErrorsComeFromTheTabulatedCommands : Prop :=
  ∀ (i : Instr) (s : State), ∃ t evs, exec i s = .next t ∧
    t.outOf i.unit s.port = s.outOf i.unit s.port ++ evs ∧
    ∀ e, .err e ∈ evs →
      (e = .invalidFormat → (∃ f : Byte, f ≠ 0 ∧ f ≠ 1 ∧ (i = .crc16Fin f ∨ i = .crc32Fin f)) ∧
        (t.crc16Of s.port).reg = (s.crc16Of s.port).reg ∧ (t.crc32Of s.port).reg = (s.crc32Of s.port).reg) ∧
      (e = .unexpectedZero ∨ (∃ n, e = .overflow n) →
        (i = .cobsdByte 0 ∧ (t.cobsdOf s.port).dec.atReset) ∨ (i = .ckdByte 0 ∧ (t.ckdOf s.port).dec.atReset)) ∧
      ((∃ n, e = .tooSmallForCrc16 n) ∨ e = .crcMismatch → i = .ckdByte 0 ∧ (t.ckdOf s.port).dec.atReset)

/-- R32, R252 (log 10): no command and no hardware reset changes a parameter of an instance. -/
def Obligations.ParametersNeverChange : Prop :=
  (∀ (i : Instr) (s : State), ∃ t, exec i s = .next t ∧ ∀ n,
    (t.cobsdOf n).dec.cap = (s.cobsdOf n).dec.cap ∧ (t.ckdOf n).dec.cap = (s.ckdOf n).dec.cap ∧
    (t.ckdOf n).forward = (s.ckdOf n).forward) ∧
  (∀ (s : State) (rest : List HostInput), s.stream = .hardwareReset :: rest → ∃ t, step s = .next t ∧ ∀ n,
    (t.cobsdOf n).dec.cap = (s.cobsdOf n).dec.cap ∧ (t.ckdOf n).dec.cap = (s.ckdOf n).dec.cap ∧
    (t.ckdOf n).forward = (s.ckdOf n).forward)

/-- R75, R76: the tags and codes; two events of different kinds have different tags, but for VALUE at its two widths. -/
def Obligations.EventTagsAreAsTabulated : Prop :=
  (∀ v, (Event.value16 v).tag = 0x01#8) ∧ (∀ v, (Event.value32 v).tag = 0x01#8) ∧ (∀ p, (Event.bytes p).tag = 0x02#8) ∧
  (∀ p, (Event.bool p).tag = 0x03#8) ∧ (∀ p, (Event.chunk p).tag = 0x10#8) ∧ (∀ c, (Event.block c).tag = 0x20#8) ∧
  (∀ c, (Event.packetEnd c).tag = 0x21#8) ∧ (∀ p, (Event.packet p).tag = 0x22#8) ∧
  (Event.err .invalidFormat).tag = 0x81#8 ∧ (Event.err .unexpectedZero).tag = 0x82#8 ∧
  (∀ n, (Event.err (.overflow n)).tag = 0x83#8) ∧ (∀ n, (Event.err (.tooSmallForCrc16 n)).tag = 0x84#8) ∧
  (Event.err .crcMismatch).tag = 0x85#8 ∧ ∀ ev : Event, ev.isError = true ↔ 0x80 ≤ ev.tag.toNat
end

