-- ==== Sys2Proof/Laws/Sparse.lean ====
section
/-! SUPPORT. What the operations on sparse data do (Machine/Sparse.lean): each read after each write, the canonical form kept by
every operation, and equal contents being equal data. The read laws hold of every list, canonical or not. -/

namespace Sys2Proof.Machine

section
variable {α : Type} (d : α) (l : List (Nat × α)) (n m : Nat) (v : α)

@[simp] theorem Sparse.get_nil : Sparse.get d [] n = d := rfl

theorem Sparse.get_erase : Sparse.get d (Sparse.erase l n) m = if m = n then d else Sparse.get d l m := by
  induction l with
  | nil => simp [Sparse.erase]
  | cons e rest ih =>
    by_cases h : e.1 = n
    · simp only [Sparse.erase, h, if_true, ih, Sparse.get]
      by_cases hm : m = n
      · simp [hm]
      · simp [hm, Ne.symm hm]
    · simp only [Sparse.erase, h, if_false, Sparse.get, ih]
      by_cases hm : e.1 = m
      · simp [hm, show m ≠ n from fun x => h (hm.trans x)]
      · simp [hm]

theorem Sparse.get_insert_erase :
    Sparse.get d (Sparse.insert (Sparse.erase l n) n v) m = if m = n then v else Sparse.get d l m := by
  induction l with
  | nil => simp [Sparse.erase, Sparse.insert, Sparse.get, eq_comm]
  | cons e rest ih =>
    by_cases h : e.1 = n
    · simp only [Sparse.erase, h, if_true, ih, Sparse.get]
      by_cases hm : m = n
      · simp [hm]
      · simp [hm, Ne.symm hm]
    · simp only [Sparse.erase, h, if_false, Sparse.insert]
      by_cases hlt : n < e.1
      · simp only [hlt, if_true, Sparse.get, Sparse.get_erase]
        by_cases hm : m = n
        · simp [hm]
        · simp [hm, Ne.symm hm]
      · simp only [hlt, if_false, Sparse.get, ih]
        by_cases hm : e.1 = m
        · simp [hm, show m ≠ n from fun x => h (hm.trans x)]
        · simp [hm]

end

section
variable {α : Type} [DecidableEq α] (d : α) (l : List (Nat × α)) (n m : Nat) (v : α)

/-- A read after a write: the value written at the number written, everything else as before. -/
theorem Sparse.get_set : Sparse.get d (Sparse.set d l n v) m = if m = n then v else Sparse.get d l m := by
  unfold Sparse.set
  by_cases h : v = d
  · simp [h, Sparse.get_erase]
  · simp [h, Sparse.get_insert_erase]

@[simp] theorem Sparse.get_set_same : Sparse.get d (Sparse.set d l n v) n = v := by simp [Sparse.get_set]

theorem Sparse.get_set_other (h : m ≠ n) : Sparse.get d (Sparse.set d l n v) m = Sparse.get d l m := by
  simp [Sparse.get_set, h]

/-- Changing every value changes every read, the unlisted ones too. -/
theorem Sparse.get_map (f : α → α) (hf : f d = d) :
    Sparse.get d (Sparse.map d f l) n = f (Sparse.get d l n) := by
  induction l with
  | nil => simp [Sparse.map, hf]
  | cons e rest ih =>
    unfold Sparse.map
    by_cases hd : f e.2 = d
    · simp only [hd, if_true, Sparse.get_erase, Sparse.get]
      by_cases he : e.1 = n
      · simp [he, hd]
      · simp [he, Ne.symm he, ih]
    · simp only [hd, if_false, Sparse.get]
      by_cases he : e.1 = n
      · simp [he]
      · simp [he, ih]

/-! ## The canonical form -/

omit [DecidableEq α] in
theorem Sparse.above_iff (k : Nat) (l : List (Nat × α)) :
    Sparse.above k l = true ↔ ∀ e ∈ l, k < e.1 := by
  induction l with
  | nil => simp [Sparse.above]
  | cons e rest ih => simp [Sparse.above, ih]

omit [DecidableEq α] in
theorem Sparse.mem_erase (e : Nat × α) : e ∈ Sparse.erase l n ↔ e ∈ l ∧ e.1 ≠ n := by
  induction l with
  | nil => simp [Sparse.erase]
  | cons x rest ih =>
    by_cases h : x.1 = n
    · simp only [Sparse.erase, h, if_true, ih, List.mem_cons]
      constructor
      · exact fun ⟨a, b⟩ => ⟨.inr a, b⟩
      · rintro ⟨rfl | a, b⟩
        · exact absurd h b
        · exact ⟨a, b⟩
    · simp only [Sparse.erase, h, if_false, List.mem_cons, ih]
      constructor
      · rintro (rfl | ⟨a, b⟩)
        · exact ⟨.inl rfl, h⟩
        · exact ⟨.inr a, b⟩
      · rintro ⟨rfl | a, b⟩
        · exact .inl rfl
        · exact .inr ⟨a, b⟩

omit [DecidableEq α] in
theorem Sparse.mem_insert (e : Nat × α) : e ∈ Sparse.insert l n v ↔ e = (n, v) ∨ e ∈ l := by
  induction l with
  | nil => simp [Sparse.insert]
  | cons x rest ih =>
    by_cases h : n < x.1
    · simp [Sparse.insert, h]
    · simp only [Sparse.insert, h, if_false, List.mem_cons, ih]
      tauto

/-- The entries after a write are the one written and entries that were there. -/
theorem Sparse.mem_set (e : Nat × α) (h : e ∈ Sparse.set d l n v) : e = (n, v) ∨ e ∈ l := by
  unfold Sparse.set at h
  split at h
  · exact .inr ((Sparse.mem_erase l n e).1 h).1
  · rcases (Sparse.mem_insert _ n v e).1 h with h | h
    · exact .inl h
    · exact .inr ((Sparse.mem_erase l n e).1 h).1

theorem Sparse.canonical_cons (e : Nat × α) :
    Sparse.canonical d (e :: l) = true ↔ e.2 ≠ d ∧ (∀ x ∈ l, e.1 < x.1) ∧ Sparse.canonical d l = true := by
  simp [Sparse.canonical, Sparse.above_iff, and_assoc]

theorem Sparse.canonical_erase (h : Sparse.canonical d l = true) : Sparse.canonical d (Sparse.erase l n) = true := by
  induction l with
  | nil => rfl
  | cons e rest ih =>
    obtain ⟨h1, h2, h3⟩ := (Sparse.canonical_cons d rest e).1 h
    unfold Sparse.erase
    split
    · exact ih h3
    · exact (Sparse.canonical_cons d _ e).2 ⟨h1, fun x hx => h2 x ((Sparse.mem_erase rest n x).1 hx).1, ih h3⟩

theorem Sparse.canonical_insert (h : Sparse.canonical d l = true) (hn : ∀ e ∈ l, e.1 ≠ n) (hv : v ≠ d) :
    Sparse.canonical d (Sparse.insert l n v) = true := by
  induction l with
  | nil => simp [Sparse.insert, Sparse.canonical, Sparse.above, hv]
  | cons e rest ih =>
    obtain ⟨h1, h2, h3⟩ := (Sparse.canonical_cons d rest e).1 h
    unfold Sparse.insert
    split
    · rename_i hlt
      refine (Sparse.canonical_cons d _ (n, v)).2 ⟨hv, ?_, h⟩
      rintro x hx
      rcases List.mem_cons.1 hx with rfl | hx
      · exact hlt
      · exact lt_trans hlt (h2 x hx)
    · rename_i hlt
      refine (Sparse.canonical_cons d _ e).2 ⟨h1, ?_, ih h3 fun x hx => hn x (List.mem_cons_of_mem _ hx)⟩
      intro x hx
      rcases (Sparse.mem_insert rest n v x).1 hx with rfl | hx
      · exact lt_of_le_of_ne (Nat.le_of_not_lt hlt) (hn e List.mem_cons_self)
      · exact h2 x hx

/-- Every write keeps the canonical form. -/
theorem Sparse.canonical_set (h : Sparse.canonical d l = true) : Sparse.canonical d (Sparse.set d l n v) = true := by
  unfold Sparse.set
  split
  · exact Sparse.canonical_erase d l n h
  · rename_i hv
    exact Sparse.canonical_insert d _ n v (Sparse.canonical_erase d l n h)
      (fun e he => ((Sparse.mem_erase l n e).1 he).2) hv

/-- The entries after a change of every value come from entries that were there. -/
theorem Sparse.mem_map (f : α → α) (e : Nat × α) (h : e ∈ Sparse.map d f l) : ∃ x ∈ l, e = (x.1, f x.2) := by
  induction l with
  | nil => simp [Sparse.map] at h
  | cons x rest ih =>
    unfold Sparse.map at h
    split at h
    · obtain ⟨y, hy, rfl⟩ := ih ((Sparse.mem_erase _ _ _).1 h).1
      exact ⟨y, List.mem_cons_of_mem _ hy, rfl⟩
    · rcases List.mem_cons.1 h with rfl | h
      · exact ⟨x, List.mem_cons_self, rfl⟩
      · obtain ⟨y, hy, rfl⟩ := ih h
        exact ⟨y, List.mem_cons_of_mem _ hy, rfl⟩

/-- Changing every value keeps the canonical form. -/
theorem Sparse.canonical_map (f : α → α) (h : Sparse.canonical d l = true) :
    Sparse.canonical d (Sparse.map d f l) = true := by
  induction l with
  | nil => rfl
  | cons e rest ih =>
    obtain ⟨_, h2, h3⟩ := (Sparse.canonical_cons d rest e).1 h
    unfold Sparse.map
    split
    · exact Sparse.canonical_erase d _ _ (ih h3)
    · rename_i hv
      refine (Sparse.canonical_cons d _ _).2 ⟨hv, ?_, ih h3⟩
      intro x hx
      obtain ⟨y, hy, rfl⟩ := Sparse.mem_map d rest f x hx
      exact h2 y hy

omit [DecidableEq α] in
theorem Sparse.get_of_above (k : Nat) (l : List (Nat × α)) (h : ∀ e ∈ l, k < e.1) : Sparse.get d l k = d := by
  induction l with
  | nil => rfl
  | cons e rest ih =>
    have : e.1 ≠ k := (h e List.mem_cons_self).ne'
    simp [Sparse.get, this, ih fun x hx => h x (List.mem_cons_of_mem _ hx)]

/-- Equal contents in canonical form are equal data. -/
theorem Sparse.canonical_ext (a b : List (Nat × α)) (ha : Sparse.canonical d a = true)
    (hb : Sparse.canonical d b = true) (h : ∀ n, Sparse.get d a n = Sparse.get d b n) : a = b := by
  induction a generalizing b with
  | nil =>
    cases b with
    | nil => rfl
    | cons e rest =>
      have := h e.1
      simp [Sparse.get] at this
      exact absurd this.symm ((Sparse.canonical_cons d rest e).1 hb).1
  | cons x xs ih =>
    obtain ⟨x1, x2, x3⟩ := (Sparse.canonical_cons d xs x).1 ha
    cases b with
    | nil =>
      have := h x.1
      simp [Sparse.get] at this
      exact absurd this x1
    | cons y ys =>
      obtain ⟨y1, y2, y3⟩ := (Sparse.canonical_cons d ys y).1 hb
      have hk : x.1 = y.1 := by
        rcases lt_trichotomy x.1 y.1 with hlt | heq | hgt
        · have := h x.1
          rw [Sparse.get, if_pos rfl, Sparse.get, if_neg hlt.ne',
            Sparse.get_of_above d x.1 ys fun e he => lt_trans hlt (y2 e he)] at this
          exact absurd this x1
        · exact heq
        · have := h y.1
          rw [Sparse.get, if_neg hgt.ne', Sparse.get, if_pos rfl,
            Sparse.get_of_above d y.1 xs fun e he => lt_trans hgt (x2 e he)] at this
          exact absurd this.symm y1
      have hv : x.2 = y.2 := by
        have := h x.1
        simpa [Sparse.get, hk] using this
      have hrest : xs = ys := by
        refine ih ys x3 y3 fun n => ?_
        by_cases hn : x.1 = n
        · subst hn
          rw [Sparse.get_of_above d _ xs x2, Sparse.get_of_above d _ ys fun e he => hk ▸ y2 e he]
        · have := h n
          simpa [Sparse.get, hn, hk ▸ hn] using this
      rw [hrest, Prod.ext hk hv]

end

/-! ## Buffers (20_memory.md R50) -/

theorem Memory.read_write (m : Memory) (i j : Nat) (v : Byte) :
    (Memory.write m i v).read j = if j = i then v else m.read j := Sparse.get_set _ _ _ _ _

@[simp] theorem Memory.read_write_same (m : Memory) (i : Nat) (v : Byte) : (Memory.write m i v).read i = v :=
  Sparse.get_set_same _ _ _ _

theorem Memory.read_write_other (m : Memory) (i j : Nat) (v : Byte) (h : j ≠ i) :
    (Memory.write m i v).read j = m.read j := Sparse.get_set_other _ _ _ _ _ h

/-- Every buffer write keeps the canonical form. -/
theorem Memory.wf_write (m : Memory) (i : Nat) (v : Byte) (h : m.wf = true) : (Memory.write m i v).wf = true :=
  Sparse.canonical_set _ _ _ _ h

theorem Memory.mem_write (m : Memory) (i : Nat) (v : Byte) (e : Host.Cell) (h : e ∈ Memory.write m i v) :
    e = (i, v) ∨ e ∈ m := Sparse.mem_set _ _ _ _ e h

@[simp] theorem Memory.slice_zero (m : Memory) (a : Nat) : m.slice a 0 = [] := rfl

theorem Memory.slice_succ (m : Memory) (a n : Nat) : m.slice a (n + 1) = m.read a :: m.slice (a + 1) n := rfl

@[simp] theorem Memory.length_slice (m : Memory) (a n : Nat) : (m.slice a n).length = n := by
  induction n generalizing a with
  | zero => rfl
  | succ k ih => simp [Memory.slice_succ, ih]

/-- The bytes of a slice, one by one. -/
theorem Memory.slice_eq_map (m : Memory) (a n : Nat) : m.slice a n = (List.range n).map fun i => m.read (a + i) := by
  induction n generalizing a with
  | zero => rfl
  | succ k ih =>
    rw [Memory.slice_succ, ih, List.range_succ_eq_map, List.map_cons, List.map_map]
    simp only [Nat.add_zero, List.cons.injEq, true_and]
    exact List.map_congr_left fun i _ => by simp [Nat.add_assoc, Nat.add_comm 1]

/-- A slice depends on the bytes of its range alone. -/
theorem Memory.slice_congr (m m' : Memory) (a n : Nat) (h : ∀ i, a ≤ i → i < a + n → m.read i = m'.read i) :
    m.slice a n = m'.slice a n := by
  rw [Memory.slice_eq_map, Memory.slice_eq_map]
  exact List.map_congr_left fun i hi => h _ (Nat.le_add_right a i) (by simpa using hi)

/-- What a copy leaves at every index: the source's byte inside the destination range, the old byte outside it (R135). -/
theorem Memory.read_copy (src : Memory) (a : Nat) (dst : Memory) (j n i : Nat) :
    (Memory.copy src a dst j n).read i =
      if j ≤ i ∧ i < j + n then src.read (a + (i - j)) else dst.read i := by
  induction n generalizing a dst j with
  | zero => simp [Memory.copy]
  | succ k ih =>
    rw [Memory.copy, ih, Memory.read_write]
    by_cases h1 : i = j
    · subst h1; simp
    · by_cases h2 : j + 1 ≤ i ∧ i < j + 1 + k
      · rw [if_pos h2, if_pos (by omega)]
        congr 1; omega
      · rw [if_neg h2, if_neg h1, if_neg (by omega)]

/-- A copy keeps the canonical form of its destination. -/
theorem Memory.wf_copy (src : Memory) (a : Nat) (dst : Memory) (j n : Nat) (h : dst.wf = true) :
    (Memory.copy src a dst j n).wf = true := by
  induction n generalizing a dst j with
  | zero => exact h
  | succ k ih => exact ih _ _ _ (Memory.wf_write _ _ _ h)

/-- The entries after a copy lie in the destination range or were there. -/
theorem Memory.mem_copy (src : Memory) (a : Nat) (dst : Memory) (j n : Nat) (e : Host.Cell)
    (h : e ∈ Memory.copy src a dst j n) : (j ≤ e.1 ∧ e.1 < j + n) ∨ e ∈ dst := by
  induction n generalizing a dst j with
  | zero => exact .inr h
  | succ k ih =>
    rcases ih _ _ _ h with h | h
    · exact .inl ⟨by omega, by omega⟩
    · rcases Memory.mem_write _ _ _ _ h with rfl | h
      · exact .inl ⟨le_refl _, by simp⟩
      · exact .inr h

end Sys2Proof.Machine
end

