-- ==== Sys2Proof/Laws/State.lean ====
section
/-! SUPPORT. One lemma per field per record update, true by rfl, and the read of an instance after the write of one, so that no
later proof unfolds a record update or a bank. -/

namespace Sys2Proof.Machine

section
variable (s : State) (n m : Nat)


/-! ### `putCrc16` -/

@[simp] theorem State.putCrc16_crc32 (u : Crc16Unit) : (s.putCrc16 n u).crc32 = s.crc32 := rfl
@[simp] theorem State.putCrc16_cobsd (u : Crc16Unit) : (s.putCrc16 n u).cobsd = s.cobsd := rfl
@[simp] theorem State.putCrc16_cobse (u : Crc16Unit) : (s.putCrc16 n u).cobse = s.cobse := rfl
@[simp] theorem State.putCrc16_ckd (u : Crc16Unit) : (s.putCrc16 n u).ckd = s.ckd := rfl
@[simp] theorem State.putCrc16_cke (u : Crc16Unit) : (s.putCrc16 n u).cke = s.cke := rfl
@[simp] theorem State.putCrc16_port (u : Crc16Unit) : (s.putCrc16 n u).port = s.port := rfl
@[simp] theorem State.putCrc16_stream (u : Crc16Unit) : (s.putCrc16 n u).stream = s.stream := rfl
@[simp] theorem State.crc16Of_putCrc16 (u : Crc16Unit) : (s.putCrc16 n u).crc16Of n = u := Sparse.get_set_same _ _ _ _
theorem State.crc16Of_putCrc16_other (u : Crc16Unit) (h : m ≠ n) : (s.putCrc16 n u).crc16Of m = s.crc16Of m :=
  Sparse.get_set_other _ _ _ _ _ h
@[simp] theorem State.crc32Of_putCrc16 (u : Crc16Unit) : (s.putCrc16 n u).crc32Of m = s.crc32Of m := rfl
@[simp] theorem State.cobsdOf_putCrc16 (u : Crc16Unit) : (s.putCrc16 n u).cobsdOf m = s.cobsdOf m := rfl
@[simp] theorem State.cobseOf_putCrc16 (u : Crc16Unit) : (s.putCrc16 n u).cobseOf m = s.cobseOf m := rfl
@[simp] theorem State.ckdOf_putCrc16 (u : Crc16Unit) : (s.putCrc16 n u).ckdOf m = s.ckdOf m := rfl
@[simp] theorem State.ckeOf_putCrc16 (u : Crc16Unit) : (s.putCrc16 n u).ckeOf m = s.ckeOf m := rfl

/-! ### `putCrc32` -/

@[simp] theorem State.putCrc32_crc16 (u : Crc32Unit) : (s.putCrc32 n u).crc16 = s.crc16 := rfl
@[simp] theorem State.putCrc32_cobsd (u : Crc32Unit) : (s.putCrc32 n u).cobsd = s.cobsd := rfl
@[simp] theorem State.putCrc32_cobse (u : Crc32Unit) : (s.putCrc32 n u).cobse = s.cobse := rfl
@[simp] theorem State.putCrc32_ckd (u : Crc32Unit) : (s.putCrc32 n u).ckd = s.ckd := rfl
@[simp] theorem State.putCrc32_cke (u : Crc32Unit) : (s.putCrc32 n u).cke = s.cke := rfl
@[simp] theorem State.putCrc32_port (u : Crc32Unit) : (s.putCrc32 n u).port = s.port := rfl
@[simp] theorem State.putCrc32_stream (u : Crc32Unit) : (s.putCrc32 n u).stream = s.stream := rfl
@[simp] theorem State.crc16Of_putCrc32 (u : Crc32Unit) : (s.putCrc32 n u).crc16Of m = s.crc16Of m := rfl
@[simp] theorem State.crc32Of_putCrc32 (u : Crc32Unit) : (s.putCrc32 n u).crc32Of n = u := Sparse.get_set_same _ _ _ _
theorem State.crc32Of_putCrc32_other (u : Crc32Unit) (h : m ≠ n) : (s.putCrc32 n u).crc32Of m = s.crc32Of m :=
  Sparse.get_set_other _ _ _ _ _ h
@[simp] theorem State.cobsdOf_putCrc32 (u : Crc32Unit) : (s.putCrc32 n u).cobsdOf m = s.cobsdOf m := rfl
@[simp] theorem State.cobseOf_putCrc32 (u : Crc32Unit) : (s.putCrc32 n u).cobseOf m = s.cobseOf m := rfl
@[simp] theorem State.ckdOf_putCrc32 (u : Crc32Unit) : (s.putCrc32 n u).ckdOf m = s.ckdOf m := rfl
@[simp] theorem State.ckeOf_putCrc32 (u : Crc32Unit) : (s.putCrc32 n u).ckeOf m = s.ckeOf m := rfl

/-! ### `putCobsd` -/

@[simp] theorem State.putCobsd_crc16 (u : CobsdUnit) : (s.putCobsd n u).crc16 = s.crc16 := rfl
@[simp] theorem State.putCobsd_crc32 (u : CobsdUnit) : (s.putCobsd n u).crc32 = s.crc32 := rfl
@[simp] theorem State.putCobsd_cobse (u : CobsdUnit) : (s.putCobsd n u).cobse = s.cobse := rfl
@[simp] theorem State.putCobsd_ckd (u : CobsdUnit) : (s.putCobsd n u).ckd = s.ckd := rfl
@[simp] theorem State.putCobsd_cke (u : CobsdUnit) : (s.putCobsd n u).cke = s.cke := rfl
@[simp] theorem State.putCobsd_port (u : CobsdUnit) : (s.putCobsd n u).port = s.port := rfl
@[simp] theorem State.putCobsd_stream (u : CobsdUnit) : (s.putCobsd n u).stream = s.stream := rfl
@[simp] theorem State.crc16Of_putCobsd (u : CobsdUnit) : (s.putCobsd n u).crc16Of m = s.crc16Of m := rfl
@[simp] theorem State.crc32Of_putCobsd (u : CobsdUnit) : (s.putCobsd n u).crc32Of m = s.crc32Of m := rfl
@[simp] theorem State.cobsdOf_putCobsd (u : CobsdUnit) : (s.putCobsd n u).cobsdOf n = u := Sparse.get_set_same _ _ _ _
theorem State.cobsdOf_putCobsd_other (u : CobsdUnit) (h : m ≠ n) : (s.putCobsd n u).cobsdOf m = s.cobsdOf m :=
  Sparse.get_set_other _ _ _ _ _ h
@[simp] theorem State.cobseOf_putCobsd (u : CobsdUnit) : (s.putCobsd n u).cobseOf m = s.cobseOf m := rfl
@[simp] theorem State.ckdOf_putCobsd (u : CobsdUnit) : (s.putCobsd n u).ckdOf m = s.ckdOf m := rfl
@[simp] theorem State.ckeOf_putCobsd (u : CobsdUnit) : (s.putCobsd n u).ckeOf m = s.ckeOf m := rfl

/-! ### `putCobse` -/

@[simp] theorem State.putCobse_crc16 (u : CobseUnit) : (s.putCobse n u).crc16 = s.crc16 := rfl
@[simp] theorem State.putCobse_crc32 (u : CobseUnit) : (s.putCobse n u).crc32 = s.crc32 := rfl
@[simp] theorem State.putCobse_cobsd (u : CobseUnit) : (s.putCobse n u).cobsd = s.cobsd := rfl
@[simp] theorem State.putCobse_ckd (u : CobseUnit) : (s.putCobse n u).ckd = s.ckd := rfl
@[simp] theorem State.putCobse_cke (u : CobseUnit) : (s.putCobse n u).cke = s.cke := rfl
@[simp] theorem State.putCobse_port (u : CobseUnit) : (s.putCobse n u).port = s.port := rfl
@[simp] theorem State.putCobse_stream (u : CobseUnit) : (s.putCobse n u).stream = s.stream := rfl
@[simp] theorem State.crc16Of_putCobse (u : CobseUnit) : (s.putCobse n u).crc16Of m = s.crc16Of m := rfl
@[simp] theorem State.crc32Of_putCobse (u : CobseUnit) : (s.putCobse n u).crc32Of m = s.crc32Of m := rfl
@[simp] theorem State.cobsdOf_putCobse (u : CobseUnit) : (s.putCobse n u).cobsdOf m = s.cobsdOf m := rfl
@[simp] theorem State.cobseOf_putCobse (u : CobseUnit) : (s.putCobse n u).cobseOf n = u := Sparse.get_set_same _ _ _ _
theorem State.cobseOf_putCobse_other (u : CobseUnit) (h : m ≠ n) : (s.putCobse n u).cobseOf m = s.cobseOf m :=
  Sparse.get_set_other _ _ _ _ _ h
@[simp] theorem State.ckdOf_putCobse (u : CobseUnit) : (s.putCobse n u).ckdOf m = s.ckdOf m := rfl
@[simp] theorem State.ckeOf_putCobse (u : CobseUnit) : (s.putCobse n u).ckeOf m = s.ckeOf m := rfl

/-! ### `putCkd` -/

@[simp] theorem State.putCkd_crc16 (u : CkdUnit) : (s.putCkd n u).crc16 = s.crc16 := rfl
@[simp] theorem State.putCkd_crc32 (u : CkdUnit) : (s.putCkd n u).crc32 = s.crc32 := rfl
@[simp] theorem State.putCkd_cobsd (u : CkdUnit) : (s.putCkd n u).cobsd = s.cobsd := rfl
@[simp] theorem State.putCkd_cobse (u : CkdUnit) : (s.putCkd n u).cobse = s.cobse := rfl
@[simp] theorem State.putCkd_cke (u : CkdUnit) : (s.putCkd n u).cke = s.cke := rfl
@[simp] theorem State.putCkd_port (u : CkdUnit) : (s.putCkd n u).port = s.port := rfl
@[simp] theorem State.putCkd_stream (u : CkdUnit) : (s.putCkd n u).stream = s.stream := rfl
@[simp] theorem State.crc16Of_putCkd (u : CkdUnit) : (s.putCkd n u).crc16Of m = s.crc16Of m := rfl
@[simp] theorem State.crc32Of_putCkd (u : CkdUnit) : (s.putCkd n u).crc32Of m = s.crc32Of m := rfl
@[simp] theorem State.cobsdOf_putCkd (u : CkdUnit) : (s.putCkd n u).cobsdOf m = s.cobsdOf m := rfl
@[simp] theorem State.cobseOf_putCkd (u : CkdUnit) : (s.putCkd n u).cobseOf m = s.cobseOf m := rfl
@[simp] theorem State.ckdOf_putCkd (u : CkdUnit) : (s.putCkd n u).ckdOf n = u := Sparse.get_set_same _ _ _ _
theorem State.ckdOf_putCkd_other (u : CkdUnit) (h : m ≠ n) : (s.putCkd n u).ckdOf m = s.ckdOf m :=
  Sparse.get_set_other _ _ _ _ _ h
@[simp] theorem State.ckeOf_putCkd (u : CkdUnit) : (s.putCkd n u).ckeOf m = s.ckeOf m := rfl

/-! ### `putCke` -/

@[simp] theorem State.putCke_crc16 (u : CkeUnit) : (s.putCke n u).crc16 = s.crc16 := rfl
@[simp] theorem State.putCke_crc32 (u : CkeUnit) : (s.putCke n u).crc32 = s.crc32 := rfl
@[simp] theorem State.putCke_cobsd (u : CkeUnit) : (s.putCke n u).cobsd = s.cobsd := rfl
@[simp] theorem State.putCke_cobse (u : CkeUnit) : (s.putCke n u).cobse = s.cobse := rfl
@[simp] theorem State.putCke_ckd (u : CkeUnit) : (s.putCke n u).ckd = s.ckd := rfl
@[simp] theorem State.putCke_port (u : CkeUnit) : (s.putCke n u).port = s.port := rfl
@[simp] theorem State.putCke_stream (u : CkeUnit) : (s.putCke n u).stream = s.stream := rfl
@[simp] theorem State.crc16Of_putCke (u : CkeUnit) : (s.putCke n u).crc16Of m = s.crc16Of m := rfl
@[simp] theorem State.crc32Of_putCke (u : CkeUnit) : (s.putCke n u).crc32Of m = s.crc32Of m := rfl
@[simp] theorem State.cobsdOf_putCke (u : CkeUnit) : (s.putCke n u).cobsdOf m = s.cobsdOf m := rfl
@[simp] theorem State.cobseOf_putCke (u : CkeUnit) : (s.putCke n u).cobseOf m = s.cobseOf m := rfl
@[simp] theorem State.ckdOf_putCke (u : CkeUnit) : (s.putCke n u).ckdOf m = s.ckdOf m := rfl
@[simp] theorem State.ckeOf_putCke (u : CkeUnit) : (s.putCke n u).ckeOf n = u := Sparse.get_set_same _ _ _ _
theorem State.ckeOf_putCke_other (u : CkeUnit) (h : m ≠ n) : (s.putCke n u).ckeOf m = s.ckeOf m :=
  Sparse.get_set_other _ _ _ _ _ h

/-! ### The host's side -/

@[simp] theorem State.advance_crc16 (r : List HostInput) : (s.advance r).crc16 = s.crc16 := rfl
@[simp] theorem State.advance_crc32 (r : List HostInput) : (s.advance r).crc32 = s.crc32 := rfl
@[simp] theorem State.advance_cobsd (r : List HostInput) : (s.advance r).cobsd = s.cobsd := rfl
@[simp] theorem State.advance_cobse (r : List HostInput) : (s.advance r).cobse = s.cobse := rfl
@[simp] theorem State.advance_ckd (r : List HostInput) : (s.advance r).ckd = s.ckd := rfl
@[simp] theorem State.advance_cke (r : List HostInput) : (s.advance r).cke = s.cke := rfl
@[simp] theorem State.advance_port (r : List HostInput) : (s.advance r).port = s.port := rfl
@[simp] theorem State.advance_stream (r : List HostInput) : (s.advance r).stream = r := rfl
@[simp] theorem State.crc16Of_advance (r : List HostInput) : (s.advance r).crc16Of m = s.crc16Of m := rfl
@[simp] theorem State.crc32Of_advance (r : List HostInput) : (s.advance r).crc32Of m = s.crc32Of m := rfl
@[simp] theorem State.cobsdOf_advance (r : List HostInput) : (s.advance r).cobsdOf m = s.cobsdOf m := rfl
@[simp] theorem State.cobseOf_advance (r : List HostInput) : (s.advance r).cobseOf m = s.cobseOf m := rfl
@[simp] theorem State.ckdOf_advance (r : List HostInput) : (s.advance r).ckdOf m = s.ckdOf m := rfl
@[simp] theorem State.ckeOf_advance (r : List HostInput) : (s.advance r).ckeOf m = s.ckeOf m := rfl
@[simp] theorem State.present_crc16 (r : List HostInput) : (s.present n r).crc16 = s.crc16 := rfl
@[simp] theorem State.present_crc32 (r : List HostInput) : (s.present n r).crc32 = s.crc32 := rfl
@[simp] theorem State.present_cobsd (r : List HostInput) : (s.present n r).cobsd = s.cobsd := rfl
@[simp] theorem State.present_cobse (r : List HostInput) : (s.present n r).cobse = s.cobse := rfl
@[simp] theorem State.present_ckd (r : List HostInput) : (s.present n r).ckd = s.ckd := rfl
@[simp] theorem State.present_cke (r : List HostInput) : (s.present n r).cke = s.cke := rfl
@[simp] theorem State.present_stream (r : List HostInput) : (s.present n r).stream = r := rfl
@[simp] theorem State.present_port (r : List HostInput) : (s.present n r).port = n := rfl
@[simp] theorem State.crc16Of_present (r : List HostInput) : (s.present n r).crc16Of m = s.crc16Of m := rfl
@[simp] theorem State.crc32Of_present (r : List HostInput) : (s.present n r).crc32Of m = s.crc32Of m := rfl
@[simp] theorem State.cobsdOf_present (r : List HostInput) : (s.present n r).cobsdOf m = s.cobsdOf m := rfl
@[simp] theorem State.cobseOf_present (r : List HostInput) : (s.present n r).cobseOf m = s.cobseOf m := rfl
@[simp] theorem State.ckdOf_present (r : List HostInput) : (s.present n r).ckdOf m = s.ckdOf m := rfl
@[simp] theorem State.ckeOf_present (r : List HostInput) : (s.present n r).ckeOf m = s.ckeOf m := rfl

/-! ### The hardware reset: every instance, listed or not (R250) -/

@[simp] theorem State.hardwareReset_port : s.hardwareReset.port = s.port := rfl
@[simp] theorem State.hardwareReset_stream : s.hardwareReset.stream = s.stream := rfl
@[simp] theorem State.crc16Of_hardwareReset : s.hardwareReset.crc16Of n = (s.crc16Of n).hardwareReset :=
  Sparse.get_map _ _ _ _ rfl
@[simp] theorem State.crc32Of_hardwareReset : s.hardwareReset.crc32Of n = (s.crc32Of n).hardwareReset :=
  Sparse.get_map _ _ _ _ rfl
@[simp] theorem State.cobsdOf_hardwareReset : s.hardwareReset.cobsdOf n = (s.cobsdOf n).hardwareReset :=
  Sparse.get_map _ _ _ _ rfl
@[simp] theorem State.cobseOf_hardwareReset : s.hardwareReset.cobseOf n = (s.cobseOf n).hardwareReset :=
  Sparse.get_map _ _ _ _ rfl
@[simp] theorem State.ckdOf_hardwareReset : s.hardwareReset.ckdOf n = (s.ckdOf n).hardwareReset :=
  Sparse.get_map _ _ _ _ rfl
@[simp] theorem State.ckeOf_hardwareReset : s.hardwareReset.ckeOf n = (s.ckeOf n).hardwareReset :=
  Sparse.get_map _ _ _ _ rfl

/-! ### The machine after reset: every instance in its kind's reset state -/

@[simp] theorem State.crc16Of_reset : State.reset.crc16Of n = Crc16Unit.reset := rfl
@[simp] theorem State.crc32Of_reset : State.reset.crc32Of n = Crc32Unit.reset := rfl
@[simp] theorem State.cobsdOf_reset : State.reset.cobsdOf n = CobsdUnit.reset := rfl
@[simp] theorem State.cobseOf_reset : State.reset.cobseOf n = CobseUnit.reset := rfl
@[simp] theorem State.ckdOf_reset : State.reset.ckdOf n = CkdUnit.reset := rfl
@[simp] theorem State.ckeOf_reset : State.reset.ckeOf n = CkeUnit.reset := rfl

end

section
variable (d : Decoder) (b : Byte)


/-! ### `resetCursors` -/

@[simp] theorem Decoder.resetCursors_blk : d.resetCursors.blk = d.blk := rfl
@[simp] theorem Decoder.resetCursors_pkt : d.resetCursors.pkt = d.pkt := rfl
@[simp] theorem Decoder.resetCursors_blockStart : d.resetCursors.blockStart = 255 := rfl
@[simp] theorem Decoder.resetCursors_blockIndex : d.resetCursors.blockIndex = 255 := rfl
@[simp] theorem Decoder.resetCursors_blockLength : d.resetCursors.blockLength = 255 := rfl
@[simp] theorem Decoder.resetCursors_packetIndex : d.resetCursors.packetIndex = 0 := rfl
@[simp] theorem Decoder.resetCursors_totalLength : d.resetCursors.totalLength = 0 := rfl
@[simp] theorem Decoder.resetCursors_cap : d.resetCursors.cap = d.cap := rfl

/-! ### `storeLiteral` -/

@[simp] theorem Decoder.storeLiteral_blk : (d.storeLiteral b).blk = d.blk.write d.blockIndex b := rfl
@[simp] theorem Decoder.storeLiteral_pkt : (d.storeLiteral b).pkt = d.pkt := rfl
@[simp] theorem Decoder.storeLiteral_blockStart : (d.storeLiteral b).blockStart = d.blockStart := rfl
@[simp] theorem Decoder.storeLiteral_blockIndex : (d.storeLiteral b).blockIndex = d.blockIndex + 1 := rfl
@[simp] theorem Decoder.storeLiteral_blockLength : (d.storeLiteral b).blockLength = d.blockLength := rfl
@[simp] theorem Decoder.storeLiteral_packetIndex : (d.storeLiteral b).packetIndex = d.packetIndex := rfl
@[simp] theorem Decoder.storeLiteral_totalLength : (d.storeLiteral b).totalLength = d.totalLength := rfl
@[simp] theorem Decoder.storeLiteral_cap : (d.storeLiteral b).cap = d.cap := rfl

/-! ### `beginBlock` -/

@[simp] theorem Decoder.beginBlock_blk : (d.beginBlock b).blk = d.blk := rfl
@[simp] theorem Decoder.beginBlock_pkt : (d.beginBlock b).pkt = d.pkt := rfl
@[simp] theorem Decoder.beginBlock_blockStart : (d.beginBlock b).blockStart = 1 := rfl
@[simp] theorem Decoder.beginBlock_blockIndex : (d.beginBlock b).blockIndex = 1 := rfl
@[simp] theorem Decoder.beginBlock_blockLength : (d.beginBlock b).blockLength = b.toNat := rfl
@[simp] theorem Decoder.beginBlock_packetIndex : (d.beginBlock b).packetIndex = d.packetIndex := rfl
@[simp] theorem Decoder.beginBlock_totalLength : (d.beginBlock b).totalLength = d.totalLength := rfl
@[simp] theorem Decoder.beginBlock_cap : (d.beginBlock b).cap = d.cap := rfl

/-! ### `implicitZero` and `flush`: the fields they never write -/

@[simp] theorem Decoder.implicitZero_pkt : d.implicitZero.pkt = d.pkt := by
  unfold Decoder.implicitZero; split <;> rfl
@[simp] theorem Decoder.implicitZero_blockStart : d.implicitZero.blockStart = d.blockStart := by
  unfold Decoder.implicitZero; split <;> rfl
@[simp] theorem Decoder.implicitZero_blockLength : d.implicitZero.blockLength = d.blockLength := by
  unfold Decoder.implicitZero; split <;> rfl
@[simp] theorem Decoder.implicitZero_packetIndex : d.implicitZero.packetIndex = d.packetIndex := by
  unfold Decoder.implicitZero; split <;> rfl
@[simp] theorem Decoder.implicitZero_totalLength : d.implicitZero.totalLength = d.totalLength := by
  unfold Decoder.implicitZero; split <;> rfl
@[simp] theorem Decoder.implicitZero_cap : d.implicitZero.cap = d.cap := by
  unfold Decoder.implicitZero; split <;> rfl
@[simp] theorem Decoder.flush_blk : d.flush.1.blk = d.blk := by
  unfold Decoder.flush; split <;> rfl
@[simp] theorem Decoder.flush_blockStart : d.flush.1.blockStart = d.blockStart := by
  unfold Decoder.flush; split <;> rfl
@[simp] theorem Decoder.flush_blockLength : d.flush.1.blockLength = d.blockLength := by
  unfold Decoder.flush; split <;> rfl
@[simp] theorem Decoder.flush_cap : d.flush.1.cap = d.cap := by
  unfold Decoder.flush; split <;> rfl
@[simp] theorem Decoder.deliver_fst : d.deliver.1 = d.resetCursors := by
  unfold Decoder.deliver; split
  · split <;> rfl
  · rfl
@[simp] theorem Decoder.packetEnd_fst : d.packetEnd.1 = d.resetCursors := d.deliver_fst

end

section
variable (e : Encoder) (b : Byte)

@[simp] theorem Encoder.resetIndex_buf : e.resetIndex.buf = e.buf := rfl
@[simp] theorem Encoder.resetIndex_index : e.resetIndex.index = 0 := rfl
@[simp] theorem Encoder.closeBlock_index : e.closeBlock.index = e.index := rfl
@[simp] theorem Encoder.closeBlock_buf : e.closeBlock.buf = e.buf.write 0 (lengthByte e.index) := rfl
@[simp] theorem Encoder.flushBlock_index : e.flushBlock.1.index = 1 := rfl
@[simp] theorem Encoder.flushBlock_buf : e.flushBlock.1.buf = e.buf.write 0 (lengthByte e.index) := rfl
@[simp] theorem Encoder.flushBlock_events : e.flushBlock.2 = [e.blockChunk] := rfl
@[simp] theorem Encoder.append_index : (e.append b).index = e.index + 1 := rfl
@[simp] theorem Encoder.append_buf : (e.append b).buf = e.buf.write e.index b := rfl
@[simp] theorem Encoder.startBlock_buf : e.startBlock.buf = e.buf := by unfold Encoder.startBlock; split <;> rfl
theorem Encoder.startBlock_index : e.startBlock.index = if e.index = 0 then 1 else e.index := by
  unfold Encoder.startBlock Encoder.noPending; by_cases h : e.index = 0 <;> simp [h]

end

end Sys2Proof.Machine
end

