-- ==== Sys2Proof/Laws/Ops.lean ====
section
/-! SUPPORT. For each shared operation, once, everything it can do: proofs cite these and do not unfold it. -/

namespace Sys2Proof.Machine

/-! ## Errors, FIN, and the end of a command -/

@[simp] theorem raise_eq {σ : Type} (e : Error) (u : σ) : raise e u = (u, [.err e]) := rfl

theorem formatOf_num : formatOf 0 = .num := rfl

theorem formatOf_seq : formatOf 1 = .seq := by decide

theorem formatOf_other (f : Byte) (h0 : f ≠ 0) (h1 : f ≠ 1) : formatOf f = .other := by
  unfold formatOf; rw [if_neg h0, if_neg h1]

/-- FIN's three cases (R106, R110). -/
theorem finish_cases {σ : Type} (f : Byte) (value : Event) (seq : List Byte) (u : σ) :
    (f = 0 ∧ finish f value seq u = (u, [value])) ∨
    (f = 1 ∧ finish f value seq u = (u, [.bytes seq])) ∨
    (f ≠ 0 ∧ f ≠ 1 ∧ finish f value seq u = (u, [.err .invalidFormat])) := by
  by_cases h0 : f = 0
  · subst h0; exact .inl ⟨rfl, rfl⟩
  · by_cases h1 : f = 1
    · subst h1; exact .inr (.inl ⟨rfl, rfl⟩)
    · refine .inr (.inr ⟨h0, h1, ?_⟩)
      unfold finish; rw [formatOf_other f h0 h1]; rfl

@[simp] theorem finish_fst {σ : Type} (f : Byte) (value : Event) (seq : List Byte) (u : σ) :
    (finish f value seq u).1 = u := by
  rcases finish_cases f value seq u with ⟨_, h⟩ | ⟨_, h⟩ | ⟨_, _, h⟩ <;> rw [h]


/-- The end of a CRC16 command: always a next state, in which the instance presented at holds the new state with the events
appended, and nothing else differs. -/
theorem State.commitCrc16_spec (s : State) (r : Crc16Unit × List Event) :
    ∃ t, s.commitCrc16 r = .next t ∧ t.crc16Of s.port = { r.1 with out := r.1.out ++ r.2 } ∧
      (∀ n, n ≠ s.port → t.crc16Of n = s.crc16Of n) ∧
      t.crc32 = s.crc32 ∧ t.cobsd = s.cobsd ∧ t.cobse = s.cobse ∧ t.ckd = s.ckd ∧ t.cke = s.cke ∧ t.port = s.port ∧ t.stream = s.stream :=
  ⟨_, rfl, State.crc16Of_putCrc16 _ _ _, fun _ h => State.crc16Of_putCrc16_other _ _ _ _ h, rfl, rfl, rfl, rfl, rfl, rfl, rfl⟩

/-- The end of a CRC32 command: always a next state, in which the instance presented at holds the new state with the events
appended, and nothing else differs. -/
theorem State.commitCrc32_spec (s : State) (r : Crc32Unit × List Event) :
    ∃ t, s.commitCrc32 r = .next t ∧ t.crc32Of s.port = { r.1 with out := r.1.out ++ r.2 } ∧
      (∀ n, n ≠ s.port → t.crc32Of n = s.crc32Of n) ∧
      t.crc16 = s.crc16 ∧ t.cobsd = s.cobsd ∧ t.cobse = s.cobse ∧ t.ckd = s.ckd ∧ t.cke = s.cke ∧ t.port = s.port ∧ t.stream = s.stream :=
  ⟨_, rfl, State.crc32Of_putCrc32 _ _ _, fun _ h => State.crc32Of_putCrc32_other _ _ _ _ h, rfl, rfl, rfl, rfl, rfl, rfl, rfl⟩

/-- The end of a COBSD command: always a next state, in which the instance presented at holds the new state with the events
appended, and nothing else differs. -/
theorem State.commitCobsd_spec (s : State) (r : CobsdUnit × List Event) :
    ∃ t, s.commitCobsd r = .next t ∧ t.cobsdOf s.port = { r.1 with out := r.1.out ++ r.2 } ∧
      (∀ n, n ≠ s.port → t.cobsdOf n = s.cobsdOf n) ∧
      t.crc16 = s.crc16 ∧ t.crc32 = s.crc32 ∧ t.cobse = s.cobse ∧ t.ckd = s.ckd ∧ t.cke = s.cke ∧ t.port = s.port ∧ t.stream = s.stream :=
  ⟨_, rfl, State.cobsdOf_putCobsd _ _ _, fun _ h => State.cobsdOf_putCobsd_other _ _ _ _ h, rfl, rfl, rfl, rfl, rfl, rfl, rfl⟩

/-- The end of a COBSE command: always a next state, in which the instance presented at holds the new state with the events
appended, and nothing else differs. -/
theorem State.commitCobse_spec (s : State) (r : CobseUnit × List Event) :
    ∃ t, s.commitCobse r = .next t ∧ t.cobseOf s.port = { r.1 with out := r.1.out ++ r.2 } ∧
      (∀ n, n ≠ s.port → t.cobseOf n = s.cobseOf n) ∧
      t.crc16 = s.crc16 ∧ t.crc32 = s.crc32 ∧ t.cobsd = s.cobsd ∧ t.ckd = s.ckd ∧ t.cke = s.cke ∧ t.port = s.port ∧ t.stream = s.stream :=
  ⟨_, rfl, State.cobseOf_putCobse _ _ _, fun _ h => State.cobseOf_putCobse_other _ _ _ _ h, rfl, rfl, rfl, rfl, rfl, rfl, rfl⟩

/-- The end of a CKD command: always a next state, in which the instance presented at holds the new state with the events
appended, and nothing else differs. -/
theorem State.commitCkd_spec (s : State) (r : CkdUnit × List Event) :
    ∃ t, s.commitCkd r = .next t ∧ t.ckdOf s.port = { r.1 with out := r.1.out ++ r.2 } ∧
      (∀ n, n ≠ s.port → t.ckdOf n = s.ckdOf n) ∧
      t.crc16 = s.crc16 ∧ t.crc32 = s.crc32 ∧ t.cobsd = s.cobsd ∧ t.cobse = s.cobse ∧ t.cke = s.cke ∧ t.port = s.port ∧ t.stream = s.stream :=
  ⟨_, rfl, State.ckdOf_putCkd _ _ _, fun _ h => State.ckdOf_putCkd_other _ _ _ _ h, rfl, rfl, rfl, rfl, rfl, rfl, rfl⟩

/-- The end of a CKE command: always a next state, in which the instance presented at holds the new state with the events
appended, and nothing else differs. -/
theorem State.commitCke_spec (s : State) (r : CkeUnit × List Event) :
    ∃ t, s.commitCke r = .next t ∧ t.ckeOf s.port = { r.1 with out := r.1.out ++ r.2 } ∧
      (∀ n, n ≠ s.port → t.ckeOf n = s.ckeOf n) ∧
      t.crc16 = s.crc16 ∧ t.crc32 = s.crc32 ∧ t.cobsd = s.cobsd ∧ t.cobse = s.cobse ∧ t.ckd = s.ckd ∧ t.port = s.port ∧ t.stream = s.stream :=
  ⟨_, rfl, State.ckeOf_putCke _ _ _, fun _ h => State.ckeOf_putCke_other _ _ _ _ h, rfl, rfl, rfl, rfl, rfl, rfl, rfl⟩

/-! ## The CRC registers -/

theorem crcShifts_succ {w : Nat} (poly : BitVec w) (n : Nat) (r : BitVec w) :
    crcShifts poly (n + 1) r = crcShifts poly n (crcShift poly r) := rfl

theorem crcShifts_add {w : Nat} (poly : BitVec w) (n m : Nat) (r : BitVec w) :
    crcShifts poly (n + m) r = crcShifts poly m (crcShifts poly n r) := by
  induction n generalizing r with
  | zero => simp [crcShifts]
  | succ k ih => rw [Nat.succ_add, crcShifts_succ, ih, crcShifts_succ]

@[simp] theorem crcFeed_nil {w : Nat} (poly r : BitVec w) : crcFeed poly r [] = r := rfl

@[simp] theorem crcFeed_cons {w : Nat} (poly r : BitVec w) (b : Byte) (s : List Byte) :
    crcFeed poly r (b :: s) = crcFeed poly (crcStep poly r b) s := rfl

theorem crcFeed_append {w : Nat} (poly r : BitVec w) (s t : List Byte) :
    crcFeed poly r (s ++ t) = crcFeed poly (crcFeed poly r s) t := by
  induction s generalizing r with
  | nil => rfl
  | cons b s ih => exact ih _

@[simp] theorem leBytes16_length (v : BitVec 16) : (leBytes16 v).length = 2 := rfl

@[simp] theorem leBytes32_length (v : BitVec 32) : (leBytes32 v).length = 4 := rfl

/-! ## The decoder's sub-operations -/

section
variable (d : Decoder) (b : Byte)

/-- R134, both cases. -/
theorem Decoder.implicitZero_cases :
    (d.blockLength = 255 ∧ d.implicitZero = d) ∨
    (d.blockLength ≠ 255 ∧ d.implicitZero = { d with blk := d.blk.write d.blockIndex 0, blockIndex := d.blockIndex + 1 }) := by
  unfold Decoder.implicitZero Config.sentinel
  by_cases h : d.blockLength = 255
  · exact .inl ⟨h, by simp [h]⟩
  · exact .inr ⟨h, by simp [h]⟩

/-- R135, both cases. -/
theorem Decoder.flush_cases :
    (d.pending = 0 ∧ d.flush = (d, [])) ∨
    (0 < d.pending ∧ d.flush.2 = [.block d.fitting] ∧ d.flush.1.blockIndex = d.blockStart ∧
      d.flush.1.packetIndex = d.packetIndex + d.fitting ∧ d.flush.1.totalLength = d.totalLength + d.pending ∧
      d.flush.1.pkt = Memory.copy d.blk d.blockStart d.pkt d.packetIndex d.fitting) := by
  unfold Decoder.flush
  by_cases h : 0 < d.pending
  · exact .inr ⟨h, by simp [h]⟩
  · exact .inl ⟨by omega, by simp [h]⟩

/-- R137, the three cases of what follows PACKET_END. -/
theorem Decoder.deliver_cases :
    (d.totalLength = 0 ∧ d.deliver.2 = []) ∨
    (0 < d.totalLength ∧ d.totalLength = d.packetIndex ∧ d.deliver.2 = [.packet (d.pkt.slice 0 d.packetIndex)]) ∨
    (0 < d.totalLength ∧ d.totalLength ≠ d.packetIndex ∧ d.deliver.2 = [.err (.overflow d.totalLength)]) := by
  unfold Decoder.deliver
  by_cases h : 0 < d.totalLength
  · by_cases h' : d.totalLength = d.packetIndex
    · exact .inr (.inl ⟨h, h', by rw [if_pos h, if_pos h']⟩)
    · exact .inr (.inr ⟨h, h', by rw [if_pos h, if_neg h']; rfl⟩)
  · exact .inl ⟨by omega, by rw [if_neg h]⟩

@[simp] theorem Decoder.packetEnd_snd : d.packetEnd.2 = .packetEnd d.totalLength :: d.deliver.2 := rfl

theorem Decoder.inBlock_iff : d.inBlock = true ↔ d.blockIndex < d.blockLength := by simp [Decoder.inBlock]

/-- R131: the four cases of one byte. -/
theorem Decoder.byte_cases :
    (d.blockIndex < d.blockLength ∧ b = 0 ∧ d.byte b = (d.resetCursors, [.err .unexpectedZero])) ∨
    (d.blockIndex < d.blockLength ∧ b ≠ 0 ∧ d.byte b = (d.storeLiteral b, [])) ∨
    (¬ d.blockIndex < d.blockLength ∧ b = 0 ∧ d.byte b = d.delimiter) ∨
    (¬ d.blockIndex < d.blockLength ∧ b ≠ 0 ∧ d.byte b = d.controlByte b) := by
  unfold Decoder.byte
  by_cases h : d.blockIndex < d.blockLength
  · by_cases hb : b = 0
    · exact .inl ⟨h, hb, by rw [if_pos ((Decoder.inBlock_iff d).2 h), if_pos hb]; rfl⟩
    · exact .inr (.inl ⟨h, hb, by rw [if_pos ((Decoder.inBlock_iff d).2 h), if_neg hb]⟩)
  · have hn : ¬ d.inBlock = true := fun x => h ((Decoder.inBlock_iff d).1 x)
    by_cases hb : b = 0
    · exact .inr (.inr (.inl ⟨h, hb, by rw [if_neg hn, if_pos hb]⟩))
    · exact .inr (.inr (.inr ⟨h, hb, by rw [if_neg hn, if_neg hb]⟩))

@[simp] theorem Decoder.byte_cap : (d.byte b).1.cap = d.cap := by
  rcases d.byte_cases b with ⟨_, _, h⟩ | ⟨_, _, h⟩ | ⟨_, _, h⟩ | ⟨_, _, h⟩ <;> rw [h]
  · rfl
  · rfl
  · simp [Decoder.delimiter]
  · simp [Decoder.controlByte]

@[simp] theorem Decoder.feed_nil : d.feed [] = (d, []) := rfl

theorem Decoder.feed_cons (s : List Byte) :
    d.feed (b :: s) = (((d.byte b).1.feed s).1, (d.byte b).2 ++ ((d.byte b).1.feed s).2) := rfl

end

theorem Decoder.feed_append (s t : List Byte) (d : Decoder) :
    d.feed (s ++ t) = (((d.feed s).1.feed t).1, (d.feed s).2 ++ ((d.feed s).1.feed t).2) := by
  induction s generalizing d with
  | nil => rfl
  | cons b s ih => simp [Decoder.feed_cons, ih]

/-! ## The encoder's sub-operations -/

section
variable (e : Encoder) (b : Byte)

theorem Encoder.noPending_iff : e.noPending = true ↔ e.index = 0 := by simp [Encoder.noPending]

/-- R161: the three cases of one payload byte. -/
theorem Encoder.data_cases :
    (b = 0 ∧ e.data b = e.startBlock.flushBlock) ∨
    (b ≠ 0 ∧ e.startBlock.index = 254 ∧ e.data b = (e.startBlock.append b).flushBlock) ∨
    (b ≠ 0 ∧ e.startBlock.index ≠ 254 ∧ e.data b = (e.startBlock.append b, [])) := by
  unfold Encoder.data Config.fullIndex
  by_cases hb : b = 0
  · exact .inl ⟨hb, by rw [if_pos hb]⟩
  · by_cases hi : e.startBlock.index = 254
    · exact .inr (.inl ⟨hb, hi, by rw [if_neg hb, if_pos (by simp [hi])]⟩)
    · exact .inr (.inr ⟨hb, hi, by rw [if_neg hb, if_neg (by simp [hi])]⟩)

/-- R162, both cases. -/
theorem Encoder.delimiter_cases :
    (e.index = 0 ∧ e.delimiter = (e.resetIndex, [.chunk [0x00#8]])) ∨
    (e.index ≠ 0 ∧ e.delimiter = (e.closeBlock.resetIndex, [e.blockChunk, .chunk [0x00#8]])) := by
  unfold Encoder.delimiter
  by_cases h : e.index = 0
  · exact .inl ⟨h, by rw [if_pos ((Encoder.noPending_iff e).2 h)]⟩
  · exact .inr ⟨h, by rw [if_neg (fun x => h ((Encoder.noPending_iff e).1 x))]⟩

/-- The chunk of a pending block: its length prefix, then its payload bytes (R160). -/
theorem Encoder.blockChunk_eq (h : e.index ≠ 0) :
    e.blockChunk = .chunk (lengthByte e.index :: e.buf.slice 1 (e.index - 1)) := by
  obtain ⟨k, hk⟩ := Nat.exists_eq_succ_of_ne_zero h
  unfold Encoder.blockChunk
  rw [Encoder.closeBlock_buf, hk, Nat.succ_eq_add_one, Memory.slice_succ]
  simp only [Memory.read_write_same, Nat.zero_add, Nat.add_sub_cancel]
  congr 2
  exact Memory.slice_congr _ _ _ _ fun i hi _ => Memory.read_write_other _ _ _ _ (by omega)

@[simp] theorem Encoder.feed_nil : e.feed [] = (e, []) := rfl

theorem Encoder.feed_cons (s : List Byte) :
    e.feed (b :: s) = (((e.data b).1.feed s).1, (e.data b).2 ++ ((e.data b).1.feed s).2) := rfl

end

theorem Encoder.feed_append (s t : List Byte) (e : Encoder) :
    e.feed (s ++ t) = (((e.feed s).1.feed t).1, (e.feed s).2 ++ ((e.feed s).1.feed t).2) := by
  induction s generalizing e with
  | nil => rfl
  | cons b s ih => simp [Encoder.feed_cons, ih]

/-! ## The checked framer -/

@[simp] theorem ckdEvents_nil (fwd : Bool) : ckdEvents fwd [] = [] := rfl

theorem ckdEvents_cons (fwd : Bool) (ev : Event) (evs : List Event) :
    ckdEvents fwd (ev :: evs) = ckdForward fwd ev ++ ckdEvents fwd evs := rfl

theorem ckdEvents_append (fwd : Bool) (xs ys : List Event) :
    ckdEvents fwd (xs ++ ys) = ckdEvents fwd xs ++ ckdEvents fwd ys := by
  induction xs with
  | nil => rfl
  | cons x xs ih => simp [ckdEvents_cons, ih]

/-- R182: the three cases of the check. -/
theorem checkPacket_cases (s : List Byte) :
    (s.length ≤ 2 ∧ checkPacket s = [.err (.tooSmallForCrc16 s.length)]) ∨
    (2 < s.length ∧ crcFeed Config.crc16Poly Config.crc16Init s = Config.crc16Residue ∧
      checkPacket s = [.packet (s.take (s.length - 2))]) ∨
    (2 < s.length ∧ crcFeed Config.crc16Poly Config.crc16Init s ≠ Config.crc16Residue ∧
      checkPacket s = [.err .crcMismatch]) := by
  unfold checkPacket verifyOk16
  by_cases h : s.length ≤ 2
  · exact .inl ⟨h, by rw [if_pos h]; rfl⟩
  · by_cases hr : crcFeed Config.crc16Poly Config.crc16Init s = Config.crc16Residue
    · exact .inr (.inl ⟨by omega, hr, by simp [h, hr]⟩)
    · exact .inr (.inr ⟨by omega, hr, by simp [h, hr]⟩)

/-! ## The step -/

/-- The step's cases, one for each kind of host input. -/
theorem step_cases (s : State) :
    (s.stream = [] ∧ step s = .next s) ∨
    (∃ n w rest, s.stream = .command n w :: rest ∧
      ((∃ i, decode w = .ok i ∧ step s = exec i (s.present n rest)) ∨
       (∃ why, decode w = .error why ∧ step s = .refused (.illegalCommand why)))) ∨
    (∃ rest, s.stream = .hardwareReset :: rest ∧ step s = .next (s.advance rest).hardwareReset) ∨
    (∃ n cap rest, s.stream = .createCobsd n cap :: rest ∧ step s = .next ((s.advance rest).createCobsd n cap)) ∨
    (∃ n cap fwd rest, s.stream = .createCkd n cap fwd :: rest ∧
      step s = .next ((s.advance rest).createCkd n cap fwd)) := by
  unfold step State.nextInput
  cases hs : s.stream with
  | nil => exact .inl ⟨rfl, rfl⟩
  | cons x rest =>
    cases x with
    | command n w =>
      refine .inr (.inl ⟨n, w, rest, rfl, ?_⟩)
      cases hd : decode w with
      | ok i => exact .inl ⟨i, rfl, by simp [hd]⟩
      | error why => exact .inr ⟨why, rfl, by simp [hd]⟩
    | hardwareReset => exact .inr (.inr (.inl ⟨rest, rfl, rfl⟩))
    | createCobsd n cap => exact .inr (.inr (.inr (.inl ⟨n, cap, rest, rfl, rfl⟩)))
    | createCkd n cap fwd => exact .inr (.inr (.inr (.inr ⟨n, cap, fwd, rest, rfl, rfl⟩)))

theorem step_hardwareReset (s : State) (rest : List HostInput) (h : s.stream = .hardwareReset :: rest) :
    step s = .next (s.advance rest).hardwareReset := by
  unfold step State.nextInput; rw [h]

theorem step_createCobsd (s : State) (n cap : Nat) (rest : List HostInput) (h : s.stream = .createCobsd n cap :: rest) :
    step s = .next ((s.advance rest).createCobsd n cap) := by
  unfold step State.nextInput; rw [h]

theorem step_createCkd (s : State) (n cap : Nat) (fwd : Bool) (rest : List HostInput)
    (h : s.stream = .createCkd n cap fwd :: rest) : step s = .next ((s.advance rest).createCkd n cap fwd) := by
  unfold step State.nextInput; rw [h]

/-- The state the fetch aid prepares has the word first on the host's list. -/
theorem State.withFetchWord_stream (s : State) (nbits w : Nat) :
    (s.withFetchWord nbits w).stream = .command s.port (BitVec.ofNat 16 (w % 2 ^ nbits)) :: s.stream := rfl

end Sys2Proof.Machine
end

