-- ==== Sys2Proof/Laws/Exec.lean ====
section
/-! SUPPORT. What each command does, as one commit of its unit's new state and events: a proof about one command starts from its
lemma here and from the commit's lemma in Laws/Ops.lean. -/

namespace Sys2Proof.Machine

section
variable (s : State) (b : Byte)

theorem exec_crc16Rst : exec .crc16Rst s = s.commitCrc16 ({ s.crc16Of s.port with reg := 0xFFFF#16 }, []) := rfl

theorem exec_crc16Upd : exec (.crc16Upd b) s =
    s.commitCrc16 ({ s.crc16Of s.port with reg := crcStep Config.crc16Poly (s.crc16Of s.port).reg b }, []) := rfl

theorem exec_crc16Fin : exec (.crc16Fin b) s =
    s.commitCrc16 (finish b (.value16 (finValue16 (s.crc16Of s.port).reg))
      (leBytes16 (finValue16 (s.crc16Of s.port).reg)) (s.crc16Of s.port)) := rfl

theorem exec_crc16Vfy : exec .crc16Vfy s =
    s.commitCrc16 (s.crc16Of s.port, [.bool (verifyOk16 (s.crc16Of s.port).reg)]) := rfl

theorem exec_crc32Rst : exec .crc32Rst s = s.commitCrc32 ({ s.crc32Of s.port with reg := 0xFFFFFFFF#32 }, []) := rfl

theorem exec_crc32Upd : exec (.crc32Upd b) s =
    s.commitCrc32 ({ s.crc32Of s.port with reg := crcStep Config.crc32Poly (s.crc32Of s.port).reg b }, []) := rfl

theorem exec_crc32Fin : exec (.crc32Fin b) s =
    s.commitCrc32 (finish b (.value32 (finValue32 (s.crc32Of s.port).reg))
      (leBytes32 (finValue32 (s.crc32Of s.port).reg)) (s.crc32Of s.port)) := rfl

theorem exec_crc32Vfy : exec .crc32Vfy s =
    s.commitCrc32 (s.crc32Of s.port, [.bool (verifyOk32 (s.crc32Of s.port).reg)]) := rfl

theorem exec_cobsdRst : exec .cobsdRst s =
    s.commitCobsd ({ s.cobsdOf s.port with dec := (s.cobsdOf s.port).dec.resetCursors }, []) := rfl

theorem exec_cobsdByte : exec (.cobsdByte b) s =
    s.commitCobsd ({ s.cobsdOf s.port with dec := ((s.cobsdOf s.port).dec.byte b).1 },
      ((s.cobsdOf s.port).dec.byte b).2) := rfl

theorem exec_cobseData : exec (.cobseData b) s =
    s.commitCobse ({ s.cobseOf s.port with enc := ((s.cobseOf s.port).enc.data b).1 },
      ((s.cobseOf s.port).enc.data b).2) := rfl

theorem exec_cobseDlm : exec .cobseDlm s =
    s.commitCobse ({ s.cobseOf s.port with enc := (s.cobseOf s.port).enc.delimiter.1 },
      (s.cobseOf s.port).enc.delimiter.2) := rfl

theorem exec_ckdRst : exec .ckdRst s =
    s.commitCkd ({ s.ckdOf s.port with dec := (s.ckdOf s.port).dec.resetCursors }, []) := rfl

theorem exec_ckdByte : exec (.ckdByte b) s =
    s.commitCkd ({ s.ckdOf s.port with dec := ((s.ckdOf s.port).dec.byte b).1 },
      ckdEvents (s.ckdOf s.port).forward ((s.ckdOf s.port).dec.byte b).2) := rfl

theorem exec_ckeData : exec (.ckeData b) s = s.commitCke ((s.ckeOf s.port).data b) := rfl

theorem exec_ckeDlm : exec .ckeDlm s = s.commitCke (s.ckeOf s.port).delimiter := rfl

end

end Sys2Proof.Machine
end

