-- ==== Sys2Proof/Tests/Slice0.lean ====
section
/-! SUPPORT. Tests: command words of 30_encoding.md R72 and R74 written out bit by bit, one-step tests whose expected values are the
vectors of 95_test_vectors.md, and for every obligation with hypotheses a state and operands that meet them all. -/

set_option Elab.async false
namespace Sys2Proof.Tests

open Sys2Proof Sys2Proof.Machine

/-! ## Ill-formed words: one for each check of WellFormed.lean (R74) -/

theorem test_unit_6_is_unknown : WellFormed.unitKnown 0b0110_0000_00000000#16 = false := by decide

theorem test_unit_6_is_refused :
    WellFormed.legalWord 0x6000#16 = false ∧ decode 0x6000#16 = .error .reservedUnit := by decide

theorem test_op_0_of_unit_3_is_not_listed : WellFormed.opListed 0b0011_0000_00000000#16 = false := by decide

theorem test_unlisted_ops_are_refused :
    WellFormed.legalWord 0x2200#16 = false ∧ decode 0x2200#16 = .error .reservedOperation ∧
    decode 0x3000#16 = .error .reservedOperation ∧ decode 0x0400#16 = .error .reservedOperation := by decide

theorem test_data_of_vfy_must_be_zero : WellFormed.dataAllowed 0b0000_0011_00000001#16 = false := by decide

theorem test_data_that_must_be_zero_is_refused :
    WellFormed.legalWord 0x0301#16 = false ∧ decode 0x0301#16 = .error .dataNotZero ∧
    decode 0x0001#16 = .error .dataNotZero ∧ decode 0x3201#16 = .error .dataNotZero := by decide

theorem test_fin_with_another_format_is_legal : WellFormed.legalWord 0x02FF#16 = true := by decide

/-! ## One word for every command, from the table of R72: UNIT, OP, DATA -/

theorem test_word_crc16Rst : decode 0b0000_0000_00000000#16 = .ok .crc16Rst := by decide
theorem test_word_crc16Upd : decode 0b0000_0001_11111111#16 = .ok (.crc16Upd 0xFF#8) := by decide
theorem test_word_crc16Fin : decode 0b0000_0010_00000001#16 = .ok (.crc16Fin 0x01#8) := by decide
theorem test_word_crc16Vfy : decode 0b0000_0011_00000000#16 = .ok .crc16Vfy := by decide
theorem test_word_crc32Rst : decode 0b0001_0000_00000000#16 = .ok .crc32Rst := by decide
theorem test_word_crc32Upd : decode 0b0001_0001_10000001#16 = .ok (.crc32Upd 0x81#8) := by decide
theorem test_word_crc32Fin : decode 0b0001_0010_00000010#16 = .ok (.crc32Fin 0x02#8) := by decide
theorem test_word_crc32Vfy : decode 0b0001_0011_00000000#16 = .ok .crc32Vfy := by decide
theorem test_word_cobsdRst : decode 0b0010_0000_00000000#16 = .ok .cobsdRst := by decide
theorem test_word_cobsdByte : decode 0b0010_0001_00000011#16 = .ok (.cobsdByte 0x03#8) := by decide
theorem test_word_cobseData : decode 0b0011_0001_00010001#16 = .ok (.cobseData 0x11#8) := by decide
theorem test_word_cobseDlm : decode 0b0011_0010_00000000#16 = .ok .cobseDlm := by decide
theorem test_word_ckdRst : decode 0b0100_0000_00000000#16 = .ok .ckdRst := by decide
theorem test_word_ckdByte : decode 0b0100_0001_11110000#16 = .ok (.ckdByte 0xF0#8) := by decide
theorem test_word_ckeData : decode 0b0101_0001_10100101#16 = .ok (.ckeData 0xA5#8) := by decide
theorem test_word_ckeDlm : decode 0b0101_0010_00000000#16 = .ok .ckeDlm := by decide

/-! ## Small states -/

/-- A decoder of capacity `cap` with the cursors in the order of 95_test_vectors.md and the given buffers. -/
def dec (cap : Nat) (c : Nat × Nat × Nat × Nat × Nat) (blk pkt : Memory) : Decoder :=
  { blk := blk, pkt := pkt, blockStart := c.1, blockIndex := c.2.1, blockLength := c.2.2.1, packetIndex := c.2.2.2.1,
    totalLength := c.2.2.2.2, cap := cap }

/-- The cursors of a decoder, in that order. -/
def cursors (d : Decoder) : Nat × Nat × Nat × Nat × Nat :=
  (d.blockStart, d.blockIndex, d.blockLength, d.packetIndex, d.totalLength)

/-- After reset, but CRC16 instance 0 holds `reg`. -/
def withCrc16 (reg : BitVec 16) : State := State.reset.putCrc16 0 { reg := reg, out := [] }

/-- After reset, but CRC32 instance 0 holds `reg`. -/
def withCrc32 (reg : BitVec 32) : State := State.reset.putCrc32 0 { reg := reg, out := [] }

/-- After reset, but COBSD instance 0 has the decoder `d`. -/
def withCobsd (d : Decoder) : State := State.reset.putCobsd 0 { dec := d, out := [] }

/-- After reset, but COBSE instance 0 has the encoder `e`. -/
def withCobse (e : Encoder) : State := State.reset.putCobse 0 { enc := e, out := [] }

/-- After reset, but CKD instance 0 has the decoder `d`. -/
def withCkd (d : Decoder) : State := State.reset.putCkd 0 { dec := d, forward := false, out := [] }

/-- After reset, but CKE instance 0 is as given. -/
def withCke (e : Encoder) (crc : BitVec 16) (count : Nat) : State :=
  State.reset.putCke 0 { enc := e, crc := crc, count := count, out := [] }

/-- The outcome is a next state, and the test holds of it. -/
def nextIs (o : Host.Outcome State Fault Refusal) (test : State → Bool) : Bool :=
  match o with
  | .next t => test t
  | .fault _ => false
  | .refused _ => false

/-! ## One step each -/

theorem test_crc16Rst : nextIs (exec .crc16Rst (withCrc16 0x0F87#16)) (fun t => t.crc16Of 0 == ⟨0xFFFF#16, []⟩) = true := by decide

/-- Rows of section 2.1. -/
theorem test_crc16Upd_zero :
    nextIs (exec (.crc16Upd 0x00#8) (withCrc16 0xFFFF#16)) (fun t => t.crc16Of 0 == ⟨0x0F87#16, []⟩) = true := by decide

theorem test_crc16Upd :
    nextIs (exec (.crc16Upd 0x56#8) (withCrc16 0x1234#16)) (fun t => t.crc16Of 0 == ⟨0x4006#16, []⟩) = true := by decide

theorem test_crc16Fin_seq :
    nextIs (exec (.crc16Fin 1) (withCrc16 0x0F87#16))
      (fun t => t.crc16Of 0 == ⟨0x0F87#16, [.bytes [0x78#8, 0xF0#8]]⟩) = true := by decide

theorem test_crc16Fin_invalidFormat :
    nextIs (exec (.crc16Fin 2) (withCrc16 0x0F87#16))
      (fun t => t.crc16Of 0 == ⟨0x0F87#16, [.err .invalidFormat]⟩) = true := by decide

theorem test_crc16Vfy_true :
    nextIs (exec .crc16Vfy (withCrc16 0xF0B8#16)) (fun t => t.crc16Of 0 == ⟨0xF0B8#16, [.bool true]⟩) = true := by decide

theorem test_crc16Vfy_after_reset :
    nextIs (exec .crc16Vfy State.reset) (fun t => t.crc16Of 0 == ⟨0xFFFF#16, [.bool false]⟩) = true := by decide

theorem test_crc32Rst :
    nextIs (exec .crc32Rst (withCrc32 0x2DFD1072#32)) (fun t => t.crc32Of 0 == ⟨0xFFFFFFFF#32, []⟩) = true := by decide

/-- Rows of section 2.2. -/
theorem test_crc32Upd_top_bit :
    nextIs (exec (.crc32Upd 0x00#8) (withCrc32 0x80000000#32)) (fun t => t.crc32Of 0 == ⟨0x00800000#32, []⟩) = true := by decide

theorem test_crc32Upd :
    nextIs (exec (.crc32Upd 0x9A#8) (withCrc32 0x12345678#32)) (fun t => t.crc32Of 0 == ⟨0x4E16B702#32, []⟩) = true := by decide

theorem test_crc32Fin_num :
    nextIs (exec (.crc32Fin 0) (withCrc32 0x2DFD1072#32))
      (fun t => t.crc32Of 0 == ⟨0x2DFD1072#32, [.value32 0xD202EF8D#32]⟩) = true := by decide

theorem test_crc32Fin_seq :
    nextIs (exec (.crc32Fin 1) (withCrc32 0x2DFD1072#32))
      (fun t => t.crc32Of 0 == ⟨0x2DFD1072#32, [.bytes [0x8D#8, 0xEF#8, 0x02#8, 0xD2#8]]⟩) = true := by decide

theorem test_crc32Vfy :
    nextIs (exec .crc32Vfy (withCrc32 0xDEBB20E3#32)) (fun t => t.crc32Of 0 == ⟨0xDEBB20E3#32, [.bool true]⟩) = true := by decide

/-- The example of R130: after `03 11`. -/
theorem test_cobsdRst :
    nextIs (exec .cobsdRst (withCobsd (dec 8 (1, 2, 3, 0, 0) [(1, 0x11#8)] [])))
      (fun t => t.cobsdOf 0 == ⟨dec 8 (255, 255, 255, 0, 0) [(1, 0x11#8)] [], []⟩) = true := by decide

/-- The byte `02` of R142: the implied zero is stored and flushed. -/
theorem test_cobsdByte_prefix :
    nextIs (exec (.cobsdByte 0x02#8) (withCobsd (dec 8 (1, 3, 3, 0, 0) [(1, 0x11#8), (2, 0x22#8)] [])))
      (fun t => cursors (t.cobsdOf 0).dec == (1, 1, 2, 3, 3) && (t.cobsdOf 0).out == [.block 3] &&
        (t.cobsdOf 0).dec.pkt.slice 0 3 == [0x11#8, 0x22#8, 0x00#8]) = true := by decide

/-- The last byte of R142 with `P = 3`. -/
theorem test_cobsdByte_overflow :
    nextIs (exec (.cobsdByte 0x00#8) (withCobsd (dec 3 (1, 2, 2, 3, 3) [(1, 0x33#8)] [(0, 0x11#8), (1, 0x22#8)])))
      (fun t => cursors (t.cobsdOf 0).dec == (255, 255, 255, 0, 0) &&
        (t.cobsdOf 0).out == [.block 0, .packetEnd 4, .err (.overflow 4)]) = true := by decide

/-- Step 3 of program 2. -/
theorem test_cobseData_zero :
    nextIs (exec (.cobseData 0x00#8) (withCobse { buf := [(1, 0x11#8), (2, 0x22#8)], index := 3 }))
      (fun t => (t.cobseOf 0).enc.index == 1 && (t.cobseOf 0).out == [.chunk [0x03#8, 0x11#8, 0x22#8]]) = true := by decide

/-- E1 and E2: a zero byte from reset. -/
theorem test_cobseData_zero_from_reset :
    nextIs (exec (.cobseData 0x00#8) State.reset)
      (fun t => (t.cobseOf 0).enc.index == 1 && (t.cobseOf 0).out == [.chunk [0x01#8]]) = true := by decide

/-- Step 5 of program 2. -/
theorem test_cobseDlm :
    nextIs (exec .cobseDlm (withCobse { buf := [(0, 0x03#8), (1, 0x33#8), (2, 0x22#8)], index := 2 }))
      (fun t => t.cobseOf 0 ==
        ⟨{ buf := [(0, 0x02#8), (1, 0x33#8), (2, 0x22#8)], index := 0 }, [.chunk [0x02#8, 0x33#8], .chunk [0x00#8]]⟩) =
      true := by decide

theorem test_ckdRst :
    nextIs (exec .ckdRst (withCkd (dec 8 (1, 2, 3, 0, 0) [(1, 0x11#8)] [])))
      (fun t => (t.ckdOf 0).dec == dec 8 (255, 255, 255, 0, 0) [(1, 0x11#8)] [] && (t.ckdOf 0).out == []) = true := by decide

/-- G1: step 9 of program 3. -/
theorem test_ckdByte_packet :
    nextIs (exec (.ckdByte 0x00#8) (withCkd (dec 8 (1, 3, 3, 1, 1) [(1, 0x78#8), (2, 0xF0#8)] [])))
      (fun t => (t.ckdOf 0).out == [.packet [0x00#8]]) = true := by decide +kernel

/-- G2. -/
theorem test_ckdByte_mismatch :
    nextIs (exec (.ckdByte 0x00#8) (withCkd (dec 8 (1, 3, 3, 1, 1) [(1, 0x78#8), (2, 0xF1#8)] [])))
      (fun t => (t.ckdOf 0).out == [.err .crcMismatch]) = true := by decide +kernel

/-- Step 2 of program 3. -/
theorem test_ckeData :
    nextIs (exec (.ckeData 0x00#8) State.reset)
      (fun t => (t.ckeOf 0).enc.index == 1 && (t.ckeOf 0).crc == 0x0F87#16 && (t.ckeOf 0).count == 1 &&
        (t.ckeOf 0).out == [.chunk [0x01#8]]) = true := by decide

/-- Step 3 of program 3. -/
theorem test_ckeDlm_with_suffix :
    nextIs (exec .ckeDlm (withCke { buf := [(0, 0x01#8)], index := 1 } 0x0F87#16 1))
      (fun t => (t.ckeOf 0).enc.index == 0 && (t.ckeOf 0).crc == 0xFFFF#16 && (t.ckeOf 0).count == 0 &&
        (t.ckeOf 0).out == [.chunk [0x03#8, 0x78#8, 0xF0#8], .chunk [0x00#8]]) = true := by decide

/-- Step 1 of program 3: no byte, no suffix. -/
theorem test_ckeDlm_empty :
    nextIs (exec .ckeDlm State.reset) (fun t => (t.ckeOf 0).out == [.chunk [0x00#8]]) = true := by decide

/-! ## The syntax of R84 -/

theorem test_assemble_label :
    assemble "d0: COBSD.BYTE 03 ; a comment" = some { label := some "d0", commands := [.cobsdByte 0x03#8] } := by decide

theorem test_assemble_frame :
    assemble "CKE.FRAME 00 fF" =
      some { label := none, commands := [.ckeDlm, .ckeData 0x00#8, .ckeData 0xFF#8, .ckeDlm] } := by decide

/-! ## Hypotheses met: the command words and the host's side -/

/-- A state with the given inputs to come. -/
def presenting (inputs : List HostInput) : State := { withCrc16 0x0F87#16 with stream := inputs }

/-- `Obligations.WordSpellingNoCommandIsRefused`: each of the three conditions, and none of them. -/
theorem test_hyp_WordSpellingNoCommandIsRefused :
    (presenting [.command 7 0xFFFF#16]).stream = .command 7 0xFFFF#16 :: [] ∧ 6 ≤ (0xFFFF#16).toNat / 4096 ∧
    (presenting [.command 7 0x5300#16]).stream = .command 7 0x5300#16 :: [] ∧
    ((0x5300#16).toNat / 4096 = 5 ∧ (0x5300#16).toNat / 256 % 16 ∉ [1, 2]) ∧
    (presenting [.command 7 0x5201#16]).stream = .command 7 0x5201#16 :: [] ∧
    ((0x5201#16).toNat / 4096 = 5 ∧ (0x5201#16).toNat / 256 % 16 = 2 ∧ (0x5201#16).toNat % 256 ≠ 0) ∧
    (presenting [.command 7 0x51FF#16]).stream = .command 7 0x51FF#16 :: [] ∧ decode 0x51FF#16 = .ok (.ckeData 0xFF#8) := by
  decide

/-- The same three words are refused by the step, each for its reason. -/
theorem test_step_refuses :
    step (presenting [.command 7 0xFFFF#16]) = .refused (.illegalCommand .reservedUnit) ∧
    step (presenting [.command 7 0x5300#16]) = .refused (.illegalCommand .reservedOperation) ∧
    step (presenting [.command 7 0x5201#16]) = .refused (.illegalCommand .dataNotZero) := ⟨rfl, rfl, rfl⟩

theorem test_hyp_StepRunsTheDecodedCommand :
    (presenting [.command 3 0x5200#16, .hardwareReset]).stream = .command 3 0x5200#16 :: [.hardwareReset] ∧
    decode 0x5200#16 = .ok .ckeDlm := by decide

theorem test_hyp_IdleStepChangesNothing : (presenting []).stream = [] := by decide

/-- Also for `Obligations.ParametersNeverChange` and `Obligations.ZeroByteAlwaysResetsTheCursors`. -/
theorem test_hyp_HardwareResetReachesEveryInstance :
    (presenting [.hardwareReset, .command 0 0x0300#16]).stream = .hardwareReset :: [.command 0 0x0300#16] := by decide

theorem test_hyp_CreatedDecoderHasItsParameters :
    (presenting [.createCobsd 2 0]).stream = .createCobsd 2 0 :: [] ∧
    (presenting [.createCkd 2 300 true]).stream = .createCkd 2 300 true :: [] := by decide

theorem test_hyp_PresentedCommandsRunInOrder :
    [Instr.crc16Upd 0xFF#8, .crc16Vfy] ≠ [] ∧
    (presenting [.command 1 0x01FF#16, .command 1 0x0300#16, .hardwareReset]).stream =
      [Instr.crc16Upd 0xFF#8, .crc16Vfy].map (fun i => .command 1 (encode i)) ++ [.hardwareReset] := by decide

/-- A chunk of one unit kind; it puts out the events of D4 in order. -/
theorem test_hyp_ChunksConcatenate :
    (∀ i ∈ [0x01#8, 0x01#8, 0x00#8].map Instr.cobsdByte, i.unit = .cobsd) ∧
    nextIs (execAll ([0x01#8, 0x01#8, 0x00#8].map .cobsdByte) State.reset)
      (fun t => t.outOf .cobsd 0 == [.block 1, .packetEnd 1, .packet [0x00#8]]) = true := by decide +kernel

/-! ## Hypotheses met: the CRC accumulators -/

theorem test_hyp_CrcStepIsABijection :
    8 ≤ 8 ∧ (0x80#8).getLsbD (8 - 1) = true ∧ 8 ≤ 16 ∧ (0x8408#16).getLsbD (16 - 1) = true ∧
    8 ≤ 32 ∧ (0xEDB88320#32).getLsbD (32 - 1) = true := by decide

/-- K10 and the example of R111. -/
theorem test_hyp_ChangedByteIsDetected :
    (0x00#8 : Byte) ≠ 0xFF#8 ∧ crcFeed 0x8408#16 0xFFFF#16 ([] ++ 0x00#8 :: [0x78#8, 0xF0#8]) = 0xF0B8#16 ∧
    crcFeed 0xEDB88320#32 0xFFFFFFFF#32 ([] ++ 0x00#8 :: [0x8D#8, 0xEF#8, 0x02#8, 0xD2#8]) = 0xDEBB20E3#32 := by decide +kernel

/-- The FIN values of K2 and L2; the right suffix verifies, and one that differs in a bit does not (R190: `78 f1`). -/
theorem test_hyp_SuffixVerifiesIffItIsTheFinValue :
    nextIs (execAll [.crc16Rst, .crc16Upd 0x00#8, .crc16Upd 0x78#8, .crc16Upd 0xF0#8, .crc16Vfy] State.reset)
      (fun t => (t.crc16Of 0).out == [.bool true]) = true ∧
    nextIs (execAll [.crc16Rst, .crc16Upd 0x00#8, .crc16Upd 0x78#8, .crc16Upd 0xF1#8, .crc16Vfy] State.reset)
      (fun t => (t.crc16Of 0).out == [.bool false]) = true ∧
    leBytes16 (crcFeed 0x8408#16 0xFFFF#16 [0x00#8] ^^^ 0xFFFF#16) = [0x78#8, 0xF0#8] ∧
    leBytes32 (crcFeed 0xEDB88320#32 0xFFFFFFFF#32 [0x00#8] ^^^ 0xFFFFFFFF#32) = [0x8D#8, 0xEF#8, 0x02#8, 0xD2#8] := by decide +kernel

theorem test_hyp_TableFormEqualsTheBitLoop : 8 ≤ 8 ∧ 8 ≤ 16 ∧ 8 ≤ 32 := by decide

theorem test_hyp_Crc16PolynomialIsForcedByTheVector :
    crcStep 0x8408#16 0xFFFF#16 0x00#8 = 0x0F87#16 ∧ (0x8408#16).getLsbD 15 = true := by decide

/-! ## Hypotheses met: the COBS decoder -/

/-- A block buffer whose indices `k` to `k + n - 1` hold 01. -/
def ones (k n : Nat) : Memory :=
  match n with
  | 0 => []
  | m + 1 => (k, 0x01#8) :: ones (k + 1) m

theorem ones_above (n : Nat) : ∀ a k, a < k → Sparse.above a (ones k n) = true := by
  induction n with
  | zero => intro a k _; rfl
  | succ m ih => intro a k h; simp [ones, Sparse.above, h, ih a (k + 1) (by omega)]

theorem ones_wf (n : Nat) : ∀ k, (ones k n).wf = true := by
  induction n with
  | zero => intro k; rfl
  | succ m ih =>
    intro k
    have h : Sparse.canonical (0x00#8) (ones (k + 1) m) = true := ih (k + 1)
    show Sparse.canonical (0x00#8) (ones k (m + 1)) = true
    simp [ones, Sparse.canonical, ones_above m k (k + 1) (by omega), h]

theorem ones_read (n : Nat) : ∀ k i, k ≤ i → i < k + n → (ones k n).read i ≠ 0 := by
  induction n with
  | zero => intro k i h1 h2; omega
  | succ m ih =>
    intro k i h1 h2
    rcases Nat.eq_or_lt_of_le h1 with h | h
    · subst h; simp [ones, Memory.read, Sparse.get]
    · have := ih (k + 1) i h (by omega)
      simpa [ones, Memory.read, Sparse.get, Nat.ne_of_lt h] using this

theorem ones_range (n : Nat) : ∀ k, ∀ e ∈ ones k n, k ≤ e.1 ∧ e.1 < k + n := by
  induction n with
  | zero => intro k e h; simp [ones] at h
  | succ m ih =>
    intro k e h
    rcases List.mem_cons.mp h with h | h
    · subst h; simp
    · have := ih (k + 1) e h; omega

/-- After `ff` and 253 literals: the next literal is the last, at index 254. -/
def nearlyFull : Decoder := dec 300 (1, 254, 255, 0, 0) (ones 1 253) []

/-- After `ff` and 254 literals: the next byte is a control byte and no zero is implied. -/
def full : Decoder := dec 300 (1, 255, 255, 0, 0) (ones 1 254) []

/-- After `fe` and 253 literals: the next byte is a control byte and a zero is implied at index 254. -/
def fullBut1 : Decoder := dec 300 (1, 254, 254, 0, 0) (ones 1 253) []

/-- After `03 11`. -/
def oneLeft (cap : Nat) : Decoder := dec cap (1, 2, 3, 0, 0) [(1, 0x11#8)] []

/-- After `03 11 22`. -/
def noneLeft (cap : Nat) : Decoder := dec cap (1, 3, 3, 0, 0) [(1, 0x11#8), (2, 0x22#8)] []

/-- Also for `Obligations.ZeroInsideABlockIsUnexpected`. -/
theorem test_hyp_LiteralIsStoredInTheBlock :
    ((withCobsd nearlyFull).cobsdOf 0).dec.blockIndex = 254 ∧
    ((withCobsd nearlyFull).cobsdOf 0).dec.blockIndex < ((withCobsd nearlyFull).cobsdOf 0).dec.blockLength ∧
    ((withCobsd (oneLeft 8)).cobsdOf 0).dec.blockIndex < ((withCobsd (oneLeft 8)).cobsdOf 0).dec.blockLength ∧
    (0xFF#8 : Byte) ≠ 0 := by decide +kernel

/-- No zero implied and 254 bytes pending, a zero implied at the last index, nothing pending. -/
theorem test_hyp_LengthPrefixFlushesAndBeginsABlock :
    (¬ ((withCobsd full).cobsdOf 0).dec.blockIndex < ((withCobsd full).cobsdOf 0).dec.blockLength) ∧
    (¬ ((withCobsd fullBut1).cobsdOf 0).dec.blockIndex < ((withCobsd fullBut1).cobsdOf 0).dec.blockLength) ∧
    (¬ (State.reset.cobsdOf 0).dec.blockIndex < (State.reset.cobsdOf 0).dec.blockLength) ∧ (0xFF#8 : Byte) ≠ 0 := by
  decide +kernel

/-- An empty packet, a packet that fits exactly, and one that is too long by one byte. -/
theorem test_hyp_DelimiterEndsThePacket :
    (¬ (State.reset.cobsdOf 0).dec.blockIndex < (State.reset.cobsdOf 0).dec.blockLength) ∧
    (¬ ((withCobsd (noneLeft 2)).cobsdOf 0).dec.blockIndex < ((withCobsd (noneLeft 2)).cobsdOf 0).dec.blockLength) ∧
    (¬ ((withCobsd (noneLeft 1)).cobsdOf 0).dec.blockIndex < ((withCobsd (noneLeft 1)).cobsdOf 0).dec.blockLength) := by
  decide

/-- A decoder whose invariant is checked by evaluation. -/
theorem decoder_inv_of_check (d : Decoder)
    (h1 : (d.blockStart = 255 ∧ d.blockIndex = 255 ∧ d.blockLength = 255) ∨
      (d.blockStart = 1 ∧ 1 ≤ d.blockIndex ∧ d.blockIndex ≤ d.blockLength ∧ d.blockLength ≤ 255))
    (h2 : d.packetIndex = min d.totalLength d.cap)
    (h3 : ∀ i, i < 255 → d.blockStart ≤ i → i < d.blockIndex → d.blk.read i ≠ 0)
    (h4 : d.blk.wf = true ∧ d.pkt.wf = true ∧ (∀ e ∈ d.blk, 1 ≤ e.1 ∧ e.1 ≤ 254) ∧ (∀ e ∈ d.pkt, e.1 < d.cap)) : d.Inv := by
  refine ⟨h1, by omega, h2, fun i hs hi => h3 i ?_ hs hi, h4⟩
  rcases h1 with h | h <;> omega

theorem fresh_inv (cap : Nat) : (Decoder.fresh cap).Inv :=
  decoder_inv_of_check _ (.inl ⟨rfl, rfl, rfl⟩) (Nat.zero_min cap).symm
    (fun i hi hs => absurd hs (by simp [Decoder.fresh, Decoder.resetCursors, Config.sentinel]; omega))
    ⟨rfl, rfl, by simp [Decoder.fresh, Decoder.resetCursors], by simp [Decoder.fresh, Decoder.resetCursors]⟩

theorem withCobsd_dec (d : Decoder) : ((withCobsd d).cobsdOf 0).dec = d := by simp [withCobsd]

theorem fullBut1_inv : fullBut1.Inv :=
  ⟨.inr ⟨rfl, by decide, by decide, by decide⟩, by decide, rfl, ones_read 253 1, ones_wf 253 1, rfl,
    fun e h => by have := ones_range 253 1 e h; omega, by simp [fullBut1, dec]⟩

theorem full_inv : full.Inv :=
  ⟨.inr ⟨rfl, by decide, by decide, by decide⟩, by decide, rfl, ones_read 254 1, ones_wf 254 1, rfl,
    fun e h => by have := ones_range 254 1 e h; omega, by simp [full, dec]⟩

/-- All four rows of R138 and the three ends of a packet: in a block; at a control position; empty, fitting exactly, too long. -/
theorem test_hyp_CobsdByteEventLists :
    (((withCobsd (oneLeft 8)).cobsdOf 0).dec.Inv ∧ (oneLeft 8).blockIndex < (oneLeft 8).blockLength) ∧
    (((withCobsd fullBut1).cobsdOf 0).dec.Inv ∧ fullBut1.blockIndex = fullBut1.blockLength) ∧
    ((withCobsd (Decoder.fresh 0)).cobsdOf 0).dec.Inv ∧
    (((withCobsd (noneLeft 2)).cobsdOf 0).dec.Inv ∧ (noneLeft 2).blockIndex = (noneLeft 2).blockLength) ∧
    ((withCobsd (noneLeft 1)).cobsdOf 0).dec.Inv :=
  ⟨⟨decoder_inv_of_check _ (by decide) (by decide) (by decide +kernel) (by decide), by decide⟩,
   ⟨by rw [withCobsd_dec]; exact fullBut1_inv, rfl⟩,
   fresh_inv 0,
   ⟨decoder_inv_of_check _ (by decide) (by decide) (by decide +kernel) (by decide), by decide⟩,
   decoder_inv_of_check _ (by decide) (by decide) (by decide +kernel) (by decide)⟩

/-- Every row of R141: a control position, `r = 1`, `r >= 2`. -/
theorem test_hyp_CobsdControlTransitions :
    (((withCobsd full).cobsdOf 0).dec.Inv ∧ full.atControl = true) ∧
    (((withCobsd (oneLeft 8)).cobsdOf 0).dec.Inv ∧ (oneLeft 8).inBlock = true ∧ (oneLeft 8).remaining = 1) ∧
    (((withCobsd (dec 8 (1, 1, 3, 0, 0) [] [])).cobsdOf 0).dec.Inv ∧ (dec 8 (1, 1, 3, 0, 0) [] []).inBlock = true ∧
      2 ≤ (dec 8 (1, 1, 3, 0, 0) [] []).remaining) :=
  ⟨⟨by rw [withCobsd_dec]; exact full_inv, rfl⟩,
   ⟨decoder_inv_of_check _ (by decide) (by decide) (by decide +kernel) (by decide), by decide, by decide⟩,
   ⟨decoder_inv_of_check _ (by decide) (by decide) (by decide +kernel) (by decide), by decide, by decide⟩⟩

/-- A full block, an empty one and a short one, over a decoder with stale bytes in its buffers. -/
theorem test_hyp_DecoderReadsEveryFramedPacket :
    ((withCobsd (dec 2 (255, 255, 255, 0, 0) [(1, 0x55#8)] [(1, 0x66#8)])).cobsdOf 0).dec.atReset ∧
    ∀ p ∈ [List.replicate 254 0xFF#8, [], [0x11#8]], Wire.blockOk p = true :=
  ⟨⟨rfl, rfl, rfl, rfl, rfl⟩, by decide +kernel⟩

/-- The longest payload a capacity of 1 admits. -/
theorem test_hyp_CobsRoundTrip :
    ((withCobsd (Decoder.fresh 1)).cobseOf 0).enc.index = 0 ∧ ((withCobsd (Decoder.fresh 1)).cobsdOf 0).dec.atReset ∧
    1 ≤ [0x00#8].length ∧ [0x00#8].length ≤ ((withCobsd (Decoder.fresh 1)).cobsdOf 0).dec.cap := by
  refine ⟨by decide, ⟨rfl, rfl, rfl, rfl, rfl⟩, by decide, by decide⟩

/-! ## Hypotheses met: the COBS encoder -/

/-- 253 payload bytes pending: the next non-zero byte is the 254th. -/
theorem test_hyp_EncoderEmitsZerosOnlyAsDelimiters :
    ((withCobse { buf := ones 1 253, index := 254 }).cobseOf 0).enc.Inv := by
  have h : ((withCobse { buf := ones 1 253, index := 254 }).cobseOf 0).enc = { buf := ones 1 253, index := 254 } := by
    simp [withCobse]
  rw [h]
  exact ⟨by decide, ones_read 253 1, ones_wf 253 1, fun e he => by have := ones_range 253 1 e he; omega⟩

theorem test_hyp_EncoderOutputIsTheClosedForm :
    ((withCobse { buf := [(0, 0x03#8), (1, 0x11#8)], index := 0 }).cobseOf 0).enc.index = 0 := by decide

theorem test_hyp_EncodedLengthFormula : List.replicate 254 (0x01#8 : Byte) ≠ [] := by decide

/-! ## Hypotheses met: the checked framer -/

theorem test_hyp_CkdByteChecksTheInnerEvents :
    ((withCobsd (noneLeft 2)).cobsdOf (withCobsd (noneLeft 2)).port).dec =
      ((withCkd (noneLeft 2)).ckdOf (withCkd (noneLeft 2)).port).dec := by decide

/-- 2 bytes are too small; 3 bytes are a payload of one byte and its suffix. -/
theorem test_hyp_CheckPacketAcceptsExactlyTheRightSuffix :
    [0x11#8, 0x22#8].length ≤ 2 ∧ [0x00#8] ≠ [] ∧
    checkPacket [0x11#8, 0x22#8] = [.err (.tooSmallForCrc16 2)] ∧
    checkPacket ([0x00#8] ++ [0x78#8, 0xF0#8]) = [.packet [0x00#8]] ∧
    checkPacket ([0x00#8] ++ [0x78#8, 0xF1#8]) = [.err .crcMismatch] := by decide +kernel

/-- Also for `Obligations.CkeDlmAppendsTheSuffix`: with bytes counted and with none. -/
theorem test_hyp_CkeDataEncodesFoldsAndCounts :
    ((withCobse { buf := [(1, 0xFF#8)], index := 2 }).cobseOf 0).enc =
      ((withCke { buf := [(1, 0xFF#8)], index := 2 } 0x00FF#16 1).ckeOf 0).enc ∧
    ((withCke { buf := [(1, 0xFF#8)], index := 2 } 0x00FF#16 1).ckeOf 0).count = 1 ∧
    (State.reset.cobseOf 0).enc = (State.reset.ckeOf 0).enc ∧ (State.reset.ckeOf 0).count = 0 := by decide

theorem test_hyp_CheckedFrameOnTheWire : ((withCke { buf := [(0, 0x02#8), (1, 0xFF#8)], index := 0 } 0xFFFF#16 0).ckeOf 0).atReset :=
  ⟨by decide, by decide, by decide⟩

/-- An empty payload, one that fits a capacity of 3 exactly, one that is too long for it by one byte. -/
theorem test_hyp_CheckedRoundTrip :
    ((withCkd (Decoder.fresh 3)).ckeOf 0).atReset ∧ ((withCkd (Decoder.fresh 3)).ckdOf 0).dec.atReset ∧
    ((withCkd (Decoder.fresh 3)).ckdOf 0).forward = false ∧
    [0x00#8].length + 2 ≤ ((withCkd (Decoder.fresh 3)).ckdOf 0).dec.cap ∧
    ¬ [0x00#8, 0xFF#8].length + 2 ≤ ((withCkd (Decoder.fresh 3)).ckdOf 0).dec.cap :=
  ⟨⟨rfl, rfl, rfl⟩, ⟨rfl, rfl, rfl, rfl, rfl⟩, by decide, by decide, by decide⟩

/-! ## Hypotheses met: the whole machine -/

/-- In the middle of everything: a CRC16 in mid-message, a COBSD in a block, and the byte that is the block's last literal. -/
def busy : State :=
  { crc16 := [(0, { reg := 0x0F87#16, out := [] })], crc32 := [], cobsd := [(0, { dec := oneLeft 8, out := [] })], cobse := [],
    ckd := [], cke := [], port := 0, stream := [.command 0 0x2122#16] }

theorem busy_cobsd (n : Nat) : (busy.cobsdOf n).dec = oneLeft 8 ∨ (busy.cobsdOf n).dec = Decoder.fresh 1024 := by
  simp only [State.cobsdOf, busy, Sparse.get]
  split
  · exact .inl rfl
  · exact .inr rfl

theorem encoder_fresh_inv : Encoder.fresh.Inv :=
  ⟨by decide, fun i h1 h2 => absurd h2 (by simp [Encoder.fresh]), rfl, by simp [Encoder.fresh]⟩

/-- Also for `Obligations.EmittedEventsStay`. -/
theorem test_hyp_StepKeepsTheInvariants : busy.Inv ∧ ∃ t, step busy = .next t := by
  refine ⟨⟨by decide, fun n => ?_, fun n => encoder_fresh_inv, fun n => fresh_inv 1024, fun n => ?_⟩, _, rfl⟩
  · rcases busy_cobsd n with h | h <;> rw [h]
    · exact decoder_inv_of_check _ (by decide) (by decide) (by decide +kernel) (by decide)
    · exact fresh_inv 1024
  · exact ⟨encoder_fresh_inv, fun _ => ⟨rfl, rfl, rfl⟩, fun h => absurd h (Nat.lt_irrefl 0)⟩

/-- `busy` with other bytes beyond the cursors. -/
def busyStale : State :=
  { busy with cobsd := [(0, { dec := { oneLeft 8 with blk := [(1, 0x11#8), (2, 0x77#8)], pkt := [(0, 0x66#8)] }, out := [] })] }

theorem test_hyp_StaleBytesReachNoEvent : busy.agree busyStale ∧ busy ≠ busyStale ∧ ∃ t, step busy = .next t := by
  refine ⟨⟨rfl, rfl, fun _ => rfl, fun _ => rfl, fun n => ?_, fun n => ⟨⟨rfl, fun _ _ _ => rfl⟩, rfl⟩,
    fun n => ⟨⟨rfl, rfl, rfl, rfl, rfl, rfl, fun _ _ _ => rfl, fun _ _ => rfl⟩, rfl, rfl⟩,
    fun n => ⟨⟨rfl, fun _ _ _ => rfl⟩, rfl, rfl, rfl⟩⟩, by decide, _, rfl⟩
  by_cases h : n = 0
  · subst h
    refine ⟨⟨rfl, rfl, rfl, rfl, rfl, rfl, fun i h1 h2 => ?_, fun i h => absurd h (Nat.not_lt_zero i)⟩, rfl⟩
    have h1' : 1 ≤ i := h1
    have h2' : i < 2 := h2
    obtain rfl : i = 1 := by omega
    decide
  · have e : busy.cobsdOf n = busyStale.cobsdOf n := by
      simp [State.cobsdOf, busy, busyStale, Sparse.get, Ne.symm h]
    rw [e]
    exact ⟨⟨rfl, rfl, rfl, rfl, rfl, rfl, fun _ _ _ => rfl, fun _ _ => rfl⟩, rfl⟩

/-- Two machines that agree on the instance commanded, under different numbers, and on nothing else. -/
theorem test_hyp_CommandsTouchOnlyTheirInstance :
    (withCrc16 0x0F87#16).view (Instr.crc16Upd 0x78#8).unit 0 =
      ({ State.reset.putCrc16 5 { reg := 0x0F87#16, out := [] } with port := 5 } : State).view (Instr.crc16Upd 0x78#8).unit 5 ∧
    (withCrc16 0x0F87#16).port = 0 := by decide

/-- Every error of R220 is raised by some command: what `Obligations.ErrorsComeFromTheTabulatedCommands` speaks of occurs. -/
theorem test_hyp_ErrorsComeFromTheTabulatedCommands :
    nextIs (exec (.crc32Fin 0xFF#8) State.reset) (fun t => (t.crc32Of 0).out == [.err .invalidFormat]) = true ∧
    nextIs (exec (.cobsdByte 0) (withCobsd (oneLeft 8))) (fun t => (t.cobsdOf 0).out == [.err .unexpectedZero]) = true ∧
    nextIs (exec (.ckdByte 0) (withCkd (noneLeft 1))) (fun t => (t.ckdOf 0).out == [.err (.overflow 2)]) = true ∧
    nextIs (exec (.ckdByte 0) (withCkd (noneLeft 2))) (fun t => (t.ckdOf 0).out == [.err (.tooSmallForCrc16 2)]) = true ∧
    nextIs (exec (.ckdByte 0) (withCkd (dec 8 (1, 3, 3, 1, 1) [(1, 0x78#8), (2, 0xF1#8)] [])))
      (fun t => (t.ckdOf 0).out == [.err .crcMismatch]) = true := by decide +kernel

end Sys2Proof.Tests
end

