-- ==== Sys2Proof/Proofs/CursorReset.lean ====
section
/-! PROOF. The occasions on which a COBS decoder's cursors take their reset values (10_state.md R35). -/

namespace Sys2Proof.Machine

theorem Decoder.atReset_resetCursors (d : Decoder) : d.resetCursors.atReset := ⟨rfl, rfl, rfl, rfl, rfl⟩

/-- Whatever the flush copies, the packet end that follows it resets the cursors (R131, R137). -/
theorem Decoder.delimiter_fst (d : Decoder) : d.delimiter.1 = d.flush.1.resetCursors := d.flush.1.packetEnd_fst

/-- A byte 00 ends in a cursor reset on both of its paths: UnexpectedZero inside a block, the packet end at a control position. -/
theorem Decoder.atReset_byte_zero (d : Decoder) : (d.byte 0).1.atReset := by
  rcases d.byte_cases 0 with ⟨_, _, inBlock⟩ | ⟨_, ne, _⟩ | ⟨_, _, atControl⟩ | ⟨_, ne, _⟩
  · rw [inBlock]; exact d.atReset_resetCursors
  · exact absurd rfl ne
  · rw [atControl, d.delimiter_fst]; exact d.flush.1.atReset_resetCursors
  · exact absurd rfl ne

/-- A COBSD command completes with the decoder it commits at the instance it is presented to. -/
theorem State.commitCobsd_dec (s : State) (r : CobsdUnit × List Event) :
    ∃ t, s.commitCobsd r = .next t ∧ (t.cobsdOf s.port).dec = r.1.dec := by
  obtain ⟨t, completes, unit, -⟩ := s.commitCobsd_spec r
  exact ⟨t, completes, by rw [unit]⟩

theorem exec_cobsdByte_zero_atReset (s : State) :
    ∃ t, exec (.cobsdByte 0) s = .next t ∧ (t.cobsdOf s.port).dec.atReset := by
  rw [exec_cobsdByte]
  obtain ⟨t, completes, dec⟩ := s.commitCobsd_dec (_, ((s.cobsdOf s.port).dec.byte 0).2)
  exact ⟨t, completes, dec ▸ Decoder.atReset_byte_zero _⟩

theorem exec_cobsdRst_atReset (s : State) :
    ∃ t, exec .cobsdRst s = .next t ∧ (t.cobsdOf s.port).dec.atReset := by
  rw [exec_cobsdRst]
  obtain ⟨t, completes, dec⟩ := s.commitCobsd_dec (_, [])
  exact ⟨t, completes, dec ▸ Decoder.atReset_resetCursors _⟩

theorem State.cobsd_atReset_hardwareReset (s : State) (n : Nat) : (s.hardwareReset.cobsdOf n).dec.atReset := by
  rw [State.cobsdOf_hardwareReset]
  exact (s.cobsdOf n).dec.atReset_resetCursors

theorem State.cobsd_atReset_reset (n : Nat) : (State.reset.cobsdOf n).dec.atReset := by
  rw [State.cobsdOf_reset]
  exact Decoder.atReset_resetCursors _

/-- Settles O35, one lemma for each occasion of R35. -/
theorem zeroByteAlwaysResetsTheCursors : Obligations.ZeroByteAlwaysResetsTheCursors :=
  ⟨exec_cobsdByte_zero_atReset, exec_cobsdRst_atReset,
    fun s rest h => ⟨_, step_hardwareReset s rest h, (s.advance rest).cobsd_atReset_hardwareReset⟩,
    State.cobsd_atReset_reset⟩

end Sys2Proof.Machine
end

