-- ==== Sys2Proof/Proofs/CommandWords.lean ====
section
/-! PROOF. Which command words the decoder refuses (30_encoding.md R74): the decoder unit by unit as a condition on `OP` and `DATA`,
the fields as the quotients and remainders of the word, and the step that meets a refused word. -/

namespace Sys2Proof

/-! ## The decoder of each unit: which `OP` and `DATA` it takes (R72) -/

theorem noOperand_ok_iff (i : Instr) (data : Byte) : (∃ j, noOperand i data = .ok j) ↔ data = 0#8 := by
  unfold noOperand
  split
  next zero => exact ⟨fun _ => zero, fun _ => ⟨i, rfl⟩⟩
  next nonzero => exact ⟨nofun, fun zero => absurd zero nonzero⟩

section
variable (op : Nat) (data : Byte)

theorem decodeCrc16_ok_iff :
    (∃ i, decodeCrc16 op data = .ok i) ↔ op ∈ [0, 1, 2, 3] ∧ (op ∈ [0, 3] → data = 0#8) := by
  unfold decodeCrc16
  split <;> simp_all [noOperand_ok_iff]

theorem decodeCrc32_ok_iff :
    (∃ i, decodeCrc32 op data = .ok i) ↔ op ∈ [0, 1, 2, 3] ∧ (op ∈ [0, 3] → data = 0#8) := by
  unfold decodeCrc32
  split <;> simp_all [noOperand_ok_iff]

theorem decodeCobsd_ok_iff :
    (∃ i, decodeCobsd op data = .ok i) ↔ op ∈ [0, 1] ∧ (op = 0 → data = 0#8) := by
  unfold decodeCobsd
  split <;> simp_all [noOperand_ok_iff]

theorem decodeCobse_ok_iff :
    (∃ i, decodeCobse op data = .ok i) ↔ op ∈ [1, 2] ∧ (op = 2 → data = 0#8) := by
  unfold decodeCobse
  split <;> simp_all [noOperand_ok_iff]

theorem decodeCkd_ok_iff :
    (∃ i, decodeCkd op data = .ok i) ↔ op ∈ [0, 1] ∧ (op = 0 → data = 0#8) := by
  unfold decodeCkd
  split <;> simp_all [noOperand_ok_iff]

theorem decodeCke_ok_iff :
    (∃ i, decodeCke op data = .ok i) ↔ op ∈ [1, 2] ∧ (op = 2 → data = 0#8) := by
  unfold decodeCke
  split <;> simp_all [noOperand_ok_iff]

end

/-! ## The fields of a word as numbers (R70) -/

section
variable (w : CommandWord)

theorem unitField_toNat : (unitField w).toNat = w.toNat / 4096 := by
  have small := w.isLt
  simp only [unitField, BitVec.extractLsb'_toNat, Nat.shiftRight_eq_div_pow]
  omega

theorem opField_toNat : (opField w).toNat = w.toNat / 256 % 16 := by
  simp [opField, BitVec.extractLsb'_toNat, Nat.shiftRight_eq_div_pow]

theorem dataField_toNat : (dataField w).toNat = w.toNat % 256 := by
  simp [dataField, BitVec.extractLsb'_toNat]

theorem dataField_eq_zero_iff : dataField w = 0#8 ↔ w.toNat % 256 = 0 := by
  rw [← dataField_toNat, BitVec.toNat_eq]; rfl

/-- The three conditions of R74, over the table of R72: the reserved units, an `OP` that is not listed for its `UNIT`, and a
non-zero `DATA` where it must be 0. -/
def SpellsNoCommand : Prop :=
  let unit := w.toNat / 4096
  let op := w.toNat / 256 % 16
  let data := w.toNat % 256
  let listed : List (Nat × List Nat) :=
    [(0, [0, 1, 2, 3]), (1, [0, 1, 2, 3]), (2, [0, 1]), (3, [1, 2]), (4, [0, 1]), (5, [1, 2])]
  let mustBeZero : List (Nat × Nat) :=
    [(0, 0), (0, 3), (1, 0), (1, 3), (2, 0), (3, 2), (4, 0), (5, 2)]
  6 ≤ unit ∨ (∀ row ∈ listed, row.1 = unit → op ∉ row.2) ∨ ((unit, op) ∈ mustBeZero ∧ data ≠ 0)

/-- R74: the decoder takes exactly the words that meet none of the three conditions, one case for each `UNIT`. -/
theorem decode_ok_iff : (∃ i, decode w = .ok i) ↔ ¬ SpellsNoCommand w := by
  unfold decode SpellsNoCommand
  rw [unitField_toNat, opField_toNat]
  split
  case h_1 unit => simp [unit, decodeCrc16_ok_iff, dataField_eq_zero_iff]; omega
  case h_2 unit => simp [unit, decodeCrc32_ok_iff, dataField_eq_zero_iff]; omega
  case h_3 unit => simp [unit, decodeCobsd_ok_iff, dataField_eq_zero_iff]; omega
  case h_4 unit => simp [unit, decodeCobse_ok_iff, dataField_eq_zero_iff]; omega
  case h_5 unit => simp [unit, decodeCkd_ok_iff, dataField_eq_zero_iff]; omega
  case h_6 unit => simp [unit, decodeCke_ok_iff, dataField_eq_zero_iff]; omega
  case h_7 not0 not1 not2 not3 not4 not5 =>
    have reserved : 6 ≤ w.toNat / 4096 := by simp only [imp_false] at *; omega
    simp [reserved]

theorem decode_error_of_spellsNoCommand (illegal : SpellsNoCommand w) : ∃ why, decode w = .error why := by
  cases result : decode w with
  | error why => exact ⟨why, rfl⟩
  | ok i => exact absurd illegal ((decode_ok_iff w).mp ⟨i, result⟩)

end

/-! ## The words of the commands (R72, R73) -/

/-- The fields side by side are a sum: the form in which R72 lists the words with an operand. -/
theorem commandWord_eq_add (unit op : BitVec 4) (data : Byte) :
    commandWord unit op data = BitVec.ofNat 16 (unit.toNat * 4096 + op.toNat * 256) + data.setWidth 16 := by
  apply BitVec.eq_of_toNat_eq
  have unit_lt := unit.isLt
  have op_lt := op.isLt
  have data_lt := data.isLt
  simp only [commandWord, BitVec.toNat_append, BitVec.toNat_add, BitVec.toNat_ofNat, BitVec.toNat_setWidth]
  rw [← Nat.shiftLeft_add_eq_or_of_lt op_lt, ← Nat.shiftLeft_add_eq_or_of_lt data_lt, Nat.shiftLeft_eq, Nat.shiftLeft_eq]
  omega

theorem decode_encode (i : Instr) : decode (encode i) = .ok i := by
  cases i <;>
    simp only [encode, decode, Laws.unitField_commandWord, Laws.opField_commandWord, Laws.dataField_commandWord] <;> rfl

theorem encode_crc16Fin (f : Byte) : encode (.crc16Fin f) = 0x0200#16 + f.setWidth 16 := commandWord_eq_add 0 2 f

theorem encode_crc32Fin (f : Byte) : encode (.crc32Fin f) = 0x1200#16 + f.setWidth 16 := commandWord_eq_add 1 2 f

end Sys2Proof

namespace Sys2Proof.Machine

/-- R74: a presented word that the decoder refuses has no next state. -/
theorem step_refused_of_decode_error (s : State) (n : Nat) (w : CommandWord) (rest : List HostInput) (why : Reject)
    (presented : s.stream = .command n w :: rest) (refused : decode w = .error why) :
    step s = .refused (.illegalCommand why) := by
  simp [step, State.nextInput, presented, refused]

/-- Settles O3: the decoder's verdict is R74's (`decode_ok_iff`), the step reports it, and every FIN word is an encoding. -/
theorem wordSpellingNoCommandIsRefused : Obligations.WordSpellingNoCommandIsRefused := by
  refine ⟨fun s n w rest presented => ?_, fun f => ⟨?_, ?_⟩⟩
  · intro unit op data listed mustBeZero
    split
    next illegal =>
      obtain ⟨why, refused⟩ := decode_error_of_spellsNoCommand w illegal
      exact ⟨why, step_refused_of_decode_error s n w rest why presented refused⟩
    next legal => exact (decode_ok_iff w).mpr legal
  · rw [← encode_crc16Fin, decode_encode]
  · rw [← encode_crc32Fin, decode_encode]

end Sys2Proof.Machine
end

