-- ==== Sys2Proof/Proofs/CrcCommands.lean ====
section
/-! PROOF. RST and FIN of the two CRC accumulators (40_crc_accumulator.md R104, R106, R108, R110): the end of a CRC command read
through the statements' frames, FIN's one event by format, and the little-endian bytes as quotients of the value. -/

namespace Sys2Proof.Machine

/-! ## The end of a CRC command -/

/-- A CRC16 command completes with the register it commits and its events appended, and touches only its own instance. -/
theorem State.commitCrc16_only (s : State) (r : Crc16Unit × List Event) :
    ∃ t, s.commitCrc16 r = .next t ∧ (t.crc16Of s.port).reg = r.1.reg ∧
      (t.crc16Of s.port).out = r.1.out ++ r.2 ∧ onlyCrc16 s t := by
  obtain ⟨t, completes, unit, others, crc32, cobsd, cobse, ckd, cke, port, stream⟩ := s.commitCrc16_spec r
  exact ⟨t, completes, by rw [unit], by rw [unit], ⟨port, stream⟩, others, crc32, cobsd, cobse, ckd, cke⟩

/-- A CRC32 command completes with the register it commits and its events appended, and touches only its own instance. -/
theorem State.commitCrc32_only (s : State) (r : Crc32Unit × List Event) :
    ∃ t, s.commitCrc32 r = .next t ∧ (t.crc32Of s.port).reg = r.1.reg ∧
      (t.crc32Of s.port).out = r.1.out ++ r.2 ∧ onlyCrc32 s t := by
  obtain ⟨t, completes, unit, others, crc16, cobsd, cobse, ckd, cke, port, stream⟩ := s.commitCrc32_spec r
  exact ⟨t, completes, by rw [unit], by rw [unit], ⟨port, stream⟩, others, crc16, cobsd, cobse, ckd, cke⟩

/-! ## What FIN puts out (R106, R110) -/

/-- FIN's three formats as one conditional event; the unit is not written in any of them. -/
theorem finish_eq_ite {σ : Type} (f : Byte) (value : Event) (seq : List Byte) (u : σ) :
    finish f value seq u =
      (u, [if f = 0 then value else if f = 1 then .bytes seq else .err .invalidFormat]) := by
  rcases finish_cases f value seq u with ⟨rfl, num⟩ | ⟨rfl, asBytes⟩ | ⟨ne0, ne1, other⟩
  · rw [num, if_pos rfl]
  · rw [asBytes, if_neg (by decide), if_pos rfl]
  · rw [other, if_neg ne0, if_neg ne1]

/-- The byte `v[8k+7 : 8k]` as the statements write it: a quotient of the value, cut to 8 bits. -/
theorem byteOf_eq_ofNat {w : Nat} (v : BitVec w) (k : Nat) : byteOf v k = BitVec.ofNat 8 (v.toNat / 2 ^ (8 * k)) := by
  rw [byteOf, BitVec.extractLsb', Nat.shiftRight_eq_div_pow]

theorem leBytes16_eq_ofNat (v : BitVec 16) :
    leBytes16 v = [BitVec.ofNat 8 v.toNat, BitVec.ofNat 8 (v.toNat / 256)] := by
  simp [leBytes16, byteOf_eq_ofNat]

theorem leBytes32_eq_ofNat (v : BitVec 32) :
    leBytes32 v = [BitVec.ofNat 8 v.toNat, BitVec.ofNat 8 (v.toNat / 256),
      BitVec.ofNat 8 (v.toNat / 65536), BitVec.ofNat 8 (v.toNat / 16777216)] := by
  simp [leBytes32, byteOf_eq_ofNat]

/-! ## The commands -/

/-- Settles O12: the commit of the all-ones register with no event. -/
theorem crc16RstSetsAllOnes : Obligations.Crc16RstSetsAllOnes := by
  refine ⟨decode_encode .crc16Rst, fun s => ?_⟩
  rw [exec_crc16Rst]
  obtain ⟨t, completes, reg, out, frame⟩ := s.commitCrc16_only ({ s.crc16Of s.port with reg := 0xFFFF#16 }, [])
  exact ⟨t, completes, reg, by rw [out, List.append_nil], frame⟩

/-- Settles O14: FIN commits the unit it read with the one event of `finish_eq_ite`. -/
theorem crc16FinReportsTheChecksum : Obligations.Crc16FinReportsTheChecksum := by
  refine ⟨fun f => by rw [← encode_crc16Fin, decode_encode], fun f s => ?_⟩
  rw [exec_crc16Fin, finish_eq_ite, leBytes16_eq_ofNat]
  exact s.commitCrc16_only (s.crc16Of s.port, _)

/-- Settles O16: as O12 on 32 bits. -/
theorem crc32RstSetsAllOnes : Obligations.Crc32RstSetsAllOnes := by
  refine ⟨decode_encode .crc32Rst, fun s => ?_⟩
  rw [exec_crc32Rst]
  obtain ⟨t, completes, reg, out, frame⟩ := s.commitCrc32_only ({ s.crc32Of s.port with reg := 0xFFFFFFFF#32 }, [])
  exact ⟨t, completes, reg, by rw [out, List.append_nil], frame⟩

/-- Settles O18: as O14 with the four bytes of the value. -/
theorem crc32FinReportsTheChecksum : Obligations.Crc32FinReportsTheChecksum := by
  refine ⟨fun f => by rw [← encode_crc32Fin, decode_encode], fun f s => ?_⟩
  rw [exec_crc32Fin, finish_eq_ite, leBytes32_eq_ofNat]
  exact s.commitCrc32_only (s.crc32Of s.port, _)

end Sys2Proof.Machine
end

