-- ==== Sys2Proof/Proofs/CursorResetCommands.lean ====
section
/-! PROOF. The two COBSD commands that do nothing but reset the cursors (41_cobs_decoder.md R130, R133): COBSD.RST, which is
silent, and a byte 00 inside a block, which reports the error. -/

namespace Sys2Proof.Machine

/-- A COBSD command completes with the decoder it commits and its events appended, and touches only its own instance. -/
theorem State.commitCobsd_only (s : State) (r : CobsdUnit × List Event) :
    ∃ t, s.commitCobsd r = .next t ∧ (t.cobsdOf s.port).dec = r.1.dec ∧
      (t.cobsdOf s.port).out = r.1.out ++ r.2 ∧ onlyCobsd s t := by
  obtain ⟨t, completes, unit, others, crc16, crc32, cobse, ckd, cke, port, stream⟩ := s.commitCobsd_spec r
  exact ⟨t, completes, by rw [unit], by rw [unit], ⟨port, stream⟩, others, crc16, crc32, cobse, ckd, cke⟩

/-- The commit of a cursor reset: the cursors alone are written, the instance puts out what the command emits. -/
theorem State.commitCobsd_resetCursors (s : State) (evs : List Event) :
    let d := (s.cobsdOf s.port).dec
    ∃ t, s.commitCobsd ({ s.cobsdOf s.port with dec := d.resetCursors }, evs) = .next t ∧
      (t.cobsdOf s.port).dec.atReset ∧ (t.cobsdOf s.port).dec.blk = d.blk ∧ (t.cobsdOf s.port).dec.pkt = d.pkt ∧
      (t.cobsdOf s.port).dec.cap = d.cap ∧ (t.cobsdOf s.port).out = (s.cobsdOf s.port).out ++ evs ∧ onlyCobsd s t := by
  intro d
  obtain ⟨t, completes, dec, out, frame⟩ :=
    s.commitCobsd_only ({ s.cobsdOf s.port with dec := d.resetCursors }, evs)
  refine ⟨t, completes, ?_, ?_, ?_, ?_, out, frame⟩ <;> rw [dec]
  · exact d.atReset_resetCursors
  · exact d.resetCursors_blk
  · exact d.resetCursors_pkt
  · exact d.resetCursors_cap

/-- R133: of the four cases of a byte, a zero inside a block meets UnexpectedZero only. -/
theorem Decoder.byte_zero_of_lt (d : Decoder) (inBlock : d.blockIndex < d.blockLength) :
    d.byte 0 = (d.resetCursors, [.err .unexpectedZero]) := by
  rcases d.byte_cases 0 with ⟨_, _, unexpected⟩ | ⟨_, ne, _⟩ | ⟨atControl, _, _⟩ | ⟨_, ne, _⟩
  · exact unexpected
  · exact absurd rfl ne
  · exact absurd inBlock atControl
  · exact absurd rfl ne

/-- Settles O30: the commit of the cursor reset with no event. -/
theorem cobsdRstResetsTheCursors : Obligations.CobsdRstResetsTheCursors := by
  refine ⟨decode_encode .cobsdRst, fun s => ?_⟩
  rw [exec_cobsdRst]
  obtain ⟨t, completes, cursors, blk, pkt, cap, out, frame⟩ := s.commitCobsd_resetCursors []
  exact ⟨t, completes, cursors, blk, pkt, cap, by rw [out, List.append_nil], frame⟩

/-- Settles O32: UnexpectedZero commits the same cursor reset, with the error as the command's only event. -/
theorem zeroInsideABlockIsUnexpected : Obligations.ZeroInsideABlockIsUnexpected := by
  intro s d inBlock
  rw [exec_cobsdByte, d.byte_zero_of_lt inBlock]
  exact s.commitCobsd_resetCursors [.err .unexpectedZero]

end Sys2Proof.Machine
end

