-- ==== Sys2Proof/Proofs/CobseDelimiter.lean ====
section
/-! PROOF. COBSE.DLM (42_cobs_encoder.md R162): the end of a COBSE command read through the statements' frame, and the chunk of
the pending block with its payload bytes by index. -/

namespace Sys2Proof.Machine

/-- A COBSE command completes with the encoder it commits and its events appended, and touches only its own instance. -/
theorem State.commitCobse_only (s : State) (r : CobseUnit × List Event) :
    ∃ t, s.commitCobse r = .next t ∧ (t.cobseOf s.port).enc = r.1.enc ∧
      (t.cobseOf s.port).out = r.1.out ++ r.2 ∧ onlyCobse s t := by
  obtain ⟨t, completes, unit, others, crc16, crc32, cobsd, ckd, cke, port, stream⟩ := s.commitCobse_spec r
  exact ⟨t, completes, by rw [unit], by rw [unit], ⟨port, stream⟩, others, crc16, crc32, cobsd, ckd, cke⟩

/-- The chunk of a pending block as the statements write it: the payload bytes stand from index 1 on (R160). -/
theorem Encoder.blockChunk_eq_map (e : Encoder) (pending : e.index ≠ 0) :
    e.blockChunk =
      .chunk (BitVec.ofNat 8 e.index :: (List.range (e.index - 1)).map fun k => e.buf.read (k + 1)) := by
  rw [e.blockChunk_eq pending, Memory.slice_eq_map, lengthByte]
  simp only [Nat.add_comm 1]

theorem Encoder.delimiter_index (e : Encoder) : e.delimiter.1.index = 0 := by
  rcases e.delimiter_cases with ⟨_, alone⟩ | ⟨_, closed⟩
  · rw [alone, resetIndex_index]
  · rw [closed, resetIndex_index]

/-- Settles O41: the commit of R162's rule, by whether a block was pending. -/
theorem cobseDlmEmitsBlockAndDelimiter : Obligations.CobseDlmEmitsBlockAndDelimiter := by
  refine ⟨decode_encode .cobseDlm, fun s => ?_⟩
  intro e
  obtain ⟨t, completes, enc, out, frame⟩ :=
    s.commitCobse_only ({ s.cobseOf s.port with enc := e.delimiter.1 }, e.delimiter.2)
  refine ⟨t, completes, by rw [enc]; exact e.delimiter_index, ?_, frame⟩
  intro e' before after
  have enc' : e' = e.delimiter.1 := enc
  have out' : after = before ++ e.delimiter.2 := out
  rw [enc', out']
  rcases e.delimiter_cases with ⟨noBlock, alone⟩ | ⟨pending, closed⟩
  · rw [if_pos noBlock, alone]
    exact ⟨e.resetIndex_buf, rfl⟩
  · rw [if_neg pending, closed, e.blockChunk_eq_map pending]
    exact ⟨Memory.read_write_same _ _ _, fun j other => Memory.read_write_other _ _ _ _ other, rfl⟩

end Sys2Proof.Machine
end

