-- ==== Sys2Proof/Proofs/CheckedFramerCommands.lean ====
section
/-! PROOF. The commands of the checked framer that take no operand (43_crc16_framer.md R180, R186): CKD.RST, and CKE.DLM against a
COBSE that is given the suffix bytes and the delimiter. -/

namespace Sys2Proof.Machine

/-! ## The end of a checked framer's command -/

/-- A CKD command completes with the unit it commits, the events appended, and touches only its own instance. -/
theorem State.commitCkd_only (s : State) (r : CkdUnit × List Event) :
    ∃ t, s.commitCkd r = .next t ∧ (t.ckdOf s.port).dec = r.1.dec ∧ (t.ckdOf s.port).forward = r.1.forward ∧
      (t.ckdOf s.port).out = r.1.out ++ r.2 ∧ onlyCkd s t := by
  obtain ⟨t, completes, unit, others, crc16, crc32, cobsd, cobse, cke, port, stream⟩ := s.commitCkd_spec r
  exact ⟨t, completes, by rw [unit], by rw [unit], by rw [unit], ⟨port, stream⟩, others, crc16, crc32, cobsd, cobse, cke⟩

/-- A CKE command completes with the unit it commits, the events appended, and touches only its own instance. -/
theorem State.commitCke_only (s : State) (r : CkeUnit × List Event) :
    ∃ t, s.commitCke r = .next t ∧ t.ckeOf s.port = { r.1 with out := r.1.out ++ r.2 } ∧ onlyCke s t := by
  obtain ⟨t, completes, unit, others, crc16, crc32, cobsd, cobse, ckd, port, stream⟩ := s.commitCke_spec r
  exact ⟨t, completes, unit, ⟨port, stream⟩, others, crc16, crc32, cobsd, cobse, ckd⟩

/-! ## CKD.RST (R180) -/

/-- Settles O45: the commit of the inner decoder's cursor reset with no event. -/
theorem ckdRstResetsTheInnerDecoder : Obligations.CkdRstResetsTheInnerDecoder := by
  refine ⟨decode_encode .ckdRst, fun s => ?_⟩
  rw [exec_ckdRst]
  obtain ⟨t, completes, dec, forward, out, frame⟩ :=
    s.commitCkd_only ({ s.ckdOf s.port with dec := (s.ckdOf s.port).dec.resetCursors }, [])
  refine ⟨t, completes, ?_, ?_, ?_, ?_, forward, by rw [out, List.append_nil], frame⟩ <;> rw [dec]
  · exact Decoder.atReset_resetCursors _
  · exact Decoder.resetCursors_blk _
  · exact Decoder.resetCursors_pkt _
  · exact Decoder.resetCursors_cap _

/-! ## A payload and its delimiter through a COBSE (00_scope.md R9, R161, R162) -/

theorem execAll_cons_of_next (i : Instr) (is : List Instr) (s t : State) (completes : exec i s = .next t) :
    execAll (i :: is) s = execAll is t := by
  rw [execAll, completes]

/-- The commands of one frame feed the bytes to the encoder one after another and then close it; what they emit is appended in
that order. -/
theorem execAll_cobseData_dlm (payload : List Byte) (r : State) :
    let e := (r.cobseOf r.port).enc
    ∃ r', execAll (payload.map .cobseData ++ [.cobseDlm]) r = .next r' ∧
      (r'.cobseOf r.port).enc = (e.feed payload).1.delimiter.1 ∧
      (r'.cobseOf r.port).out =
        (r.cobseOf r.port).out ++ ((e.feed payload).2 ++ (e.feed payload).1.delimiter.2) := by
  intro e
  induction payload generalizing r with
  | nil =>
    obtain ⟨r', completes, enc, out, -⟩ :=
      r.commitCobse_only ({ r.cobseOf r.port with enc := e.delimiter.1 }, e.delimiter.2)
    exact ⟨r', execAll_cons_of_next .cobseDlm [] r r' completes, enc, out⟩
  | cons b rest ih =>
    obtain ⟨t, completes, enc, out, ⟨port, -⟩, -⟩ :=
      r.commitCobse_only ({ r.cobseOf r.port with enc := (e.data b).1 }, (e.data b).2)
    obtain ⟨r', restCompletes, restEnc, restOut⟩ := ih t
    rw [port, enc] at restEnc restOut
    refine ⟨r', (execAll_cons_of_next (.cobseData b) _ r t completes).trans restCompletes, restEnc, ?_⟩
    rw [restOut, out, e.feed_cons, List.append_assoc, List.append_assoc]

/-! ## CKE.DLM (R186) -/

/-- The commands that give a COBSE the suffix and the delimiter, as the statement writes them: the suffix bytes are the low and
the high byte of the FIN value, and there are none when no byte was counted. -/
theorem CkeUnit.suffix_commands (u : CkeUnit) :
    u.suffix.map Instr.cobseData ++ [.cobseDlm] =
      if 0 < u.count then
        [.cobseData (BitVec.ofNat 8 (u.crc ^^^ 0xFFFF#16).toNat),
          .cobseData (BitVec.ofNat 8 ((u.crc ^^^ 0xFFFF#16).toNat / 256)), .cobseDlm]
      else [.cobseDlm] := by
  unfold CkeUnit.suffix
  split
  next counted => rw [leBytes16_eq_ofNat]; rfl
  next noneCounted => rfl

theorem CkeUnit.atReset_delimiter (u : CkeUnit) : u.delimiter.1.atReset := ⟨Encoder.delimiter_index _, rfl, rfl⟩

/-- Settles O49: the inner encoder is fed the suffix and closed, as the COBSE is by `execAll_cobseData_dlm`. -/
theorem ckeDlmAppendsTheSuffix : Obligations.CkeDlmAppendsTheSuffix := by
  refine ⟨decode_encode .ckeDlm, fun s r sameEncoder => ?_⟩
  intro v inner
  have innerCommands : inner = (s.ckeOf s.port).suffix.map Instr.cobseData ++ [.cobseDlm] :=
    (s.ckeOf s.port).suffix_commands.symm
  obtain ⟨r', innerCompletes, innerEnc, innerOut⟩ := execAll_cobseData_dlm (s.ckeOf s.port).suffix r
  rw [sameEncoder] at innerEnc innerOut
  obtain ⟨t, completes, unit, frame⟩ := s.commitCke_only (s.ckeOf s.port).delimiter
  refine ⟨t, r', (s.ckeOf s.port).delimiter.2, innerCommands ▸ innerCompletes, innerOut, completes,
    ?_, ?_, ?_, frame⟩ <;> rw [unit]
  · exact innerEnc.symm
  · exact CkeUnit.atReset_delimiter _
  · rfl

end Sys2Proof.Machine
end

/-! PROOF. The agreement of decoder and encoder (30_encoding.md R70 to R73), and the words of the commands with an operand. -/

namespace Sys2Proof

/-- A word is its three fields side by side (R70). -/
theorem commandWord_fields (w : CommandWord) : commandWord (unitField w) (opField w) (dataField w) = w := by
  have small := w.isLt
  rw [commandWord_eq_add]
  apply BitVec.eq_of_toNat_eq
  simp only [BitVec.toNat_add, BitVec.toNat_ofNat, BitVec.toNat_setWidth, unitField_toNat, opField_toNat, dataField_toNat]
  omega

theorem noOperand_eq_ok_iff (i j : Instr) (data : Byte) : noOperand i data = .ok j ↔ i = j ∧ data = 0 := by
  unfold noOperand
  split
  next zero => simp [zero]
  next nonzero => exact ⟨nofun, fun both => absurd both.2 nonzero⟩

/-! ## Each unit's decoder gives a command whose word has that `UNIT`, `OP` and `DATA` (R72) -/

section
variable (op : Nat) (data : Byte) (i : Instr)

theorem encode_of_decodeCrc16 (decodes : decodeCrc16 op data = .ok i) :
    encode i = commandWord 0 (BitVec.ofNat 4 op) data := by
  unfold decodeCrc16 at decodes
  split at decodes
  case h_1 => obtain ⟨rfl, rfl⟩ := (noOperand_eq_ok_iff _ _ _).1 decodes; rfl
  case h_2 => cases decodes; rfl
  case h_3 => cases decodes; rfl
  case h_4 => obtain ⟨rfl, rfl⟩ := (noOperand_eq_ok_iff _ _ _).1 decodes; rfl
  case h_5 => cases decodes

theorem encode_of_decodeCrc32 (decodes : decodeCrc32 op data = .ok i) :
    encode i = commandWord 1 (BitVec.ofNat 4 op) data := by
  unfold decodeCrc32 at decodes
  split at decodes
  case h_1 => obtain ⟨rfl, rfl⟩ := (noOperand_eq_ok_iff _ _ _).1 decodes; rfl
  case h_2 => cases decodes; rfl
  case h_3 => cases decodes; rfl
  case h_4 => obtain ⟨rfl, rfl⟩ := (noOperand_eq_ok_iff _ _ _).1 decodes; rfl
  case h_5 => cases decodes

theorem encode_of_decodeCobsd (decodes : decodeCobsd op data = .ok i) :
    encode i = commandWord 2 (BitVec.ofNat 4 op) data := by
  unfold decodeCobsd at decodes
  split at decodes
  case h_1 => obtain ⟨rfl, rfl⟩ := (noOperand_eq_ok_iff _ _ _).1 decodes; rfl
  case h_2 => cases decodes; rfl
  case h_3 => cases decodes

theorem encode_of_decodeCobse (decodes : decodeCobse op data = .ok i) :
    encode i = commandWord 3 (BitVec.ofNat 4 op) data := by
  unfold decodeCobse at decodes
  split at decodes
  case h_1 => cases decodes; rfl
  case h_2 => obtain ⟨rfl, rfl⟩ := (noOperand_eq_ok_iff _ _ _).1 decodes; rfl
  case h_3 => cases decodes

theorem encode_of_decodeCkd (decodes : decodeCkd op data = .ok i) :
    encode i = commandWord 4 (BitVec.ofNat 4 op) data := by
  unfold decodeCkd at decodes
  split at decodes
  case h_1 => obtain ⟨rfl, rfl⟩ := (noOperand_eq_ok_iff _ _ _).1 decodes; rfl
  case h_2 => cases decodes; rfl
  case h_3 => cases decodes

theorem encode_of_decodeCke (decodes : decodeCke op data = .ok i) :
    encode i = commandWord 5 (BitVec.ofNat 4 op) data := by
  unfold decodeCke at decodes
  split at decodes
  case h_1 => cases decodes; rfl
  case h_2 => obtain ⟨rfl, rfl⟩ := (noOperand_eq_ok_iff _ _ _).1 decodes; rfl
  case h_3 => cases decodes

end

/-- A word that has the fields of a command's word is that word. -/
theorem eq_of_unitField (w : CommandWord) (i : Instr) (unit : Nat) (hasUnit : (unitField w).toNat = unit)
    (word : encode i = commandWord (BitVec.ofNat 4 unit) (BitVec.ofNat 4 (opField w).toNat) (dataField w)) :
    encode i = w := by
  rw [word, ← hasUnit, BitVec.ofNat_toNat, BitVec.ofNat_toNat, BitVec.setWidth_eq, BitVec.setWidth_eq,
    commandWord_fields]

theorem encode_of_decode (w : CommandWord) (i : Instr) (decodes : decode w = .ok i) : encode i = w := by
  unfold decode at decodes
  split at decodes
  case h_1 unit => exact eq_of_unitField w i 0 unit (encode_of_decodeCrc16 _ _ _ decodes)
  case h_2 unit => exact eq_of_unitField w i 1 unit (encode_of_decodeCrc32 _ _ _ decodes)
  case h_3 unit => exact eq_of_unitField w i 2 unit (encode_of_decodeCobsd _ _ _ decodes)
  case h_4 unit => exact eq_of_unitField w i 3 unit (encode_of_decodeCobse _ _ _ decodes)
  case h_5 unit => exact eq_of_unitField w i 4 unit (encode_of_decodeCkd _ _ _ decodes)
  case h_6 unit => exact eq_of_unitField w i 5 unit (encode_of_decodeCke _ _ _ decodes)
  case h_7 => cases decodes

/-- Settles O1: one direction unit by unit, the other is `decode_encode`. -/
theorem wordDecodesIffItIsTheEncoding : Obligations.WordDecodesIffItIsTheEncoding :=
  fun w i => ⟨encode_of_decode w i, fun word => word ▸ decode_encode i⟩

/-- Settles O2: each of the ten words is the encoding of its command. -/
theorem listedWordsDecodeAsTabulated : Obligations.ListedWordsDecodeAsTabulated :=
  ⟨decode_encode .crc16Rst, decode_encode (.crc16Upd 0xFF), decode_encode (.crc16Fin 1), decode_encode (.crc16Fin 0xFF),
    decode_encode .crc32Vfy, decode_encode (.cobsdByte 0), decode_encode (.cobseData 0), decode_encode .cobseDlm,
    decode_encode (.ckdByte 0xF0), decode_encode .ckeDlm⟩

/-! ## The words of the byte commands (R72) -/

section
variable (b : Byte)

theorem decode_crc16Upd : decode (0x0100#16 + b.setWidth 16) = .ok (.crc16Upd b) :=
  commandWord_eq_add 0 1 b ▸ decode_encode (.crc16Upd b)

theorem decode_crc32Upd : decode (0x1100#16 + b.setWidth 16) = .ok (.crc32Upd b) :=
  commandWord_eq_add 1 1 b ▸ decode_encode (.crc32Upd b)

theorem decode_cobseData : decode (0x3100#16 + b.setWidth 16) = .ok (.cobseData b) :=
  commandWord_eq_add 3 1 b ▸ decode_encode (.cobseData b)

theorem decode_ckdByte : decode (0x4100#16 + b.setWidth 16) = .ok (.ckdByte b) :=
  commandWord_eq_add 4 1 b ▸ decode_encode (.ckdByte b)

theorem decode_ckeData : decode (0x5100#16 + b.setWidth 16) = .ok (.ckeData b) :=
  commandWord_eq_add 5 1 b ▸ decode_encode (.ckeData b)

end

end Sys2Proof

/-! PROOF. Every command as one function of the instance it is presented to (00_scope.md R8, R10). `UnitView.effect` gives a unit's new
state and the events put out, `State.putView` and `State.view` write and read an instance of any kind, and `exec_eq_putView` says
that executing a command is that and nothing else. The statements about all commands are then about `UnitView.effect`. -/

namespace Sys2Proof.Machine

/-! ## Instances of any kind -/

def UnitView.kind (v : UnitView) : UnitKind :=
  match v with
  | .crc16 _ => .crc16
  | .crc32 _ => .crc32
  | .cobsd _ => .cobsd
  | .cobse _ => .cobse
  | .ckd _ => .ckd
  | .cke _ => .cke

def UnitView.out (v : UnitView) : List Event :=
  match v with
  | .crc16 u => u.out
  | .crc32 u => u.out
  | .cobsd u => u.out
  | .cobse u => u.out
  | .ckd u => u.out
  | .cke u => u.out

/-- The instance with events appended to what it has put out. -/
def UnitView.emit (v : UnitView) (evs : List Event) : UnitView :=
  match v with
  | .crc16 u => .crc16 { u with out := u.out ++ evs }
  | .crc32 u => .crc32 { u with out := u.out ++ evs }
  | .cobsd u => .cobsd { u with out := u.out ++ evs }
  | .cobse u => .cobse { u with out := u.out ++ evs }
  | .ckd u => .ckd { u with out := u.out ++ evs }
  | .cke u => .cke { u with out := u.out ++ evs }

/-- The instance `n` of the kind of `v` becomes `v`. -/
def State.putView (s : State) (n : Nat) (v : UnitView) : State :=
  match v with
  | .crc16 u => s.putCrc16 n u
  | .crc32 u => s.putCrc32 n u
  | .cobsd u => s.putCobsd n u
  | .cobse u => s.putCobse n u
  | .ckd u => s.putCkd n u
  | .cke u => s.putCke n u

/-- What a command makes of the instance it is presented to, and the events it puts out. An instance of another kind than the
command's (which `State.view` at `Instr.unit` never gives) stays as it is. -/
def UnitView.effect (i : Instr) (v : UnitView) : UnitView × List Event :=
  match i, v with
  | .crc16Rst, .crc16 u => (.crc16 { u with reg := Config.crc16Init }, [])
  | .crc16Upd b, .crc16 u => (.crc16 { u with reg := crcStep Config.crc16Poly u.reg b }, [])
  | .crc16Fin f, .crc16 u => finish f (.value16 (finValue16 u.reg)) (leBytes16 (finValue16 u.reg)) (.crc16 u)
  | .crc16Vfy, .crc16 u => (.crc16 u, [.bool (verifyOk16 u.reg)])
  | .crc32Rst, .crc32 u => (.crc32 { u with reg := Config.crc32Init }, [])
  | .crc32Upd b, .crc32 u => (.crc32 { u with reg := crcStep Config.crc32Poly u.reg b }, [])
  | .crc32Fin f, .crc32 u => finish f (.value32 (finValue32 u.reg)) (leBytes32 (finValue32 u.reg)) (.crc32 u)
  | .crc32Vfy, .crc32 u => (.crc32 u, [.bool (verifyOk32 u.reg)])
  | .cobsdRst, .cobsd u => (.cobsd { u with dec := u.dec.resetCursors }, [])
  | .cobsdByte b, .cobsd u => (.cobsd { u with dec := (u.dec.byte b).1 }, (u.dec.byte b).2)
  | .cobseData b, .cobse u => (.cobse { u with enc := (u.enc.data b).1 }, (u.enc.data b).2)
  | .cobseDlm, .cobse u => (.cobse { u with enc := u.enc.delimiter.1 }, u.enc.delimiter.2)
  | .ckdRst, .ckd u => (.ckd { u with dec := u.dec.resetCursors }, [])
  | .ckdByte b, .ckd u => (.ckd { u with dec := (u.dec.byte b).1 }, ckdEvents u.forward (u.dec.byte b).2)
  | .ckeData b, .cke u => (.cke (u.data b).1, (u.data b).2)
  | .ckeDlm, .cke u => (.cke u.delimiter.1, u.delimiter.2)
  | _, v => (v, [])

section
variable (s : State) (n : Nat) (v : UnitView)

@[simp] theorem State.view_kind (k : UnitKind) : (s.view k n).kind = k := by cases k <;> rfl

theorem State.outOf_eq (k : UnitKind) : s.outOf k n = (s.view k n).out := by cases k <;> rfl

@[simp] theorem UnitView.emit_kind (evs : List Event) : (v.emit evs).kind = v.kind := by cases v <;> rfl

@[simp] theorem UnitView.emit_out (evs : List Event) : (v.emit evs).out = v.out ++ evs := by cases v <;> rfl

@[simp] theorem State.putView_port : (s.putView n v).port = s.port := by cases v <;> rfl

@[simp] theorem State.putView_stream : (s.putView n v).stream = s.stream := by cases v <;> rfl

@[simp] theorem State.view_putView_same : (s.putView n v).view v.kind n = v := by
  cases v <;> simp [State.putView, UnitView.kind, State.view]

theorem State.view_putView_other (k : UnitKind) (m : Nat) (other : (k, m) ≠ (v.kind, n)) :
    (s.putView n v).view k m = s.view k m := by
  have otherNumber (same : k = v.kind) : m ≠ n := fun h => other (by rw [same, h])
  cases v with
  | crc16 u =>
    cases k
    case crc16 => exact congrArg UnitView.crc16 (s.crc16Of_putCrc16_other n m u (otherNumber rfl))
    all_goals rfl
  | crc32 u =>
    cases k
    case crc32 => exact congrArg UnitView.crc32 (s.crc32Of_putCrc32_other n m u (otherNumber rfl))
    all_goals rfl
  | cobsd u =>
    cases k
    case cobsd => exact congrArg UnitView.cobsd (s.cobsdOf_putCobsd_other n m u (otherNumber rfl))
    all_goals rfl
  | cobse u =>
    cases k
    case cobse => exact congrArg UnitView.cobse (s.cobseOf_putCobse_other n m u (otherNumber rfl))
    all_goals rfl
  | ckd u =>
    cases k
    case ckd => exact congrArg UnitView.ckd (s.ckdOf_putCkd_other n m u (otherNumber rfl))
    all_goals rfl
  | cke u =>
    cases k
    case cke => exact congrArg UnitView.cke (s.ckeOf_putCke_other n m u (otherNumber rfl))
    all_goals rfl

/-- Presenting at a port reads and writes no instance. -/
@[simp] theorem State.view_present (k : UnitKind) (m : Nat) (rest : List HostInput) :
    (s.present n rest).view k m = s.view k m := by cases k <;> rfl

@[simp] theorem State.view_advance (k : UnitKind) (m : Nat) (rest : List HostInput) :
    (s.advance rest).view k m = s.view k m := by cases k <;> rfl

/-- The host's list takes no part in the write of an instance. -/
theorem State.advance_putView (rest : List HostInput) :
    (s.putView n v).advance rest = (s.advance rest).putView n v := by cases v <;> rfl

end

/-! ## The effect of a command -/

section
variable (i : Instr) (v : UnitView)

/-- A command keeps the kind of its instance, and takes nothing back that the instance has put out. -/
theorem UnitView.effect_kind : (v.effect i).1.kind = v.kind := by
  unfold UnitView.effect
  split <;> simp only [finish_fst, UnitView.kind]

theorem UnitView.effect_out : (v.effect i).1.out = v.out := by
  unfold UnitView.effect
  split <;> simp only [finish_fst, UnitView.out, CkeUnit.data, CkeUnit.delimiter]

end

section
variable (i : Instr) (s : State)

/-- The instance a command is presented to, after the command. -/
def State.viewAfter : UnitView := ((s.view i.unit s.port).effect i).1.emit ((s.view i.unit s.port).effect i).2

/-- R8: every command completes, and writes the instance it is presented to and nothing else. -/
theorem exec_eq_putView : exec i s = .next (s.putView s.port (s.viewAfter i)) := by
  cases i
  case crc16Fin f => rw [exec_crc16Fin, finish_eq_ite, State.viewAfter, Instr.unit, State.view, UnitView.effect, finish_eq_ite]; rfl
  case crc32Fin f => rw [exec_crc32Fin, finish_eq_ite, State.viewAfter, Instr.unit, State.view, UnitView.effect, finish_eq_ite]; rfl
  all_goals rfl

theorem State.viewAfter_kind : (s.viewAfter i).kind = i.unit := by
  simp [State.viewAfter, UnitView.effect_kind]

theorem State.viewAfter_out :
    (s.viewAfter i).out = s.outOf i.unit s.port ++ ((s.view i.unit s.port).effect i).2 := by
  rw [State.viewAfter, UnitView.emit_out, UnitView.effect_out, State.outOf_eq]

/-- Everything a command does: it completes; its instance has taken the effect, with the events appended; every other instance of
every unit, the port and the host's list stay. -/
theorem exec_spec : ∃ t, exec i s = .next t ∧ t.view i.unit s.port = s.viewAfter i ∧
    t.outOf i.unit s.port = s.outOf i.unit s.port ++ ((s.view i.unit s.port).effect i).2 ∧
    t.port = s.port ∧ t.stream = s.stream ∧ ∀ k n, (k, n) ≠ (i.unit, s.port) → t.view k n = s.view k n := by
  have same : (s.putView s.port (s.viewAfter i)).view i.unit s.port = s.viewAfter i := by
    have := s.view_putView_same s.port (s.viewAfter i)
    rwa [State.viewAfter_kind] at this
  refine ⟨_, exec_eq_putView i s, same, ?_, s.putView_port _ _, s.putView_stream _ _, fun k n other => ?_⟩
  · rw [State.outOf_eq, same, State.viewAfter_out]
  · exact s.view_putView_other _ _ k n (by rwa [State.viewAfter_kind])

end

/-- Settles O6. -/
theorem everyCommandCompletes : Obligations.EveryCommandCompletes :=
  fun i s => ⟨_, exec_eq_putView i s⟩

/-- Settles O55: the effect is a function of the instance presented to. -/
theorem commandsTouchOnlyTheirInstance : Obligations.CommandsTouchOnlyTheirInstance := by
  intro i s s' sameInstance
  obtain ⟨t, completes, view, -, port, stream, others⟩ := exec_spec i s
  obtain ⟨t', completes', view', -⟩ := exec_spec i s'
  refine ⟨t, t', completes, completes', ?_, port, stream, others⟩
  rw [view, view', State.viewAfter, State.viewAfter, sameInstance]

/-! ## The steps that are no command (70_reset_and_hazards.md R250, R253) -/

/-- The hardware reset of one instance of any kind. -/
def UnitView.hardwareReset (v : UnitView) : UnitView :=
  match v with
  | .crc16 u => .crc16 u.hardwareReset
  | .crc32 u => .crc32 u.hardwareReset
  | .cobsd u => .cobsd u.hardwareReset
  | .cobse u => .cobse u.hardwareReset
  | .ckd u => .ckd u.hardwareReset
  | .cke u => .cke u.hardwareReset

@[simp] theorem State.view_hardwareReset (s : State) (k : UnitKind) (n : Nat) :
    s.hardwareReset.view k n = (s.view k n).hardwareReset := by
  cases k <;> simp [State.view, UnitView.hardwareReset]

@[simp] theorem UnitView.hardwareReset_out (v : UnitView) : v.hardwareReset.out = v.out := by cases v <;> rfl

/-- The step's next states: nothing happened, every instance took the hardware reset, or one instance was written, by a command's
effect or as a decoder newly created. -/
theorem step_next_cases (s t : State) (steps : step s = .next t) :
    t = s ∨
    (∃ rest, s.stream = .hardwareReset :: rest ∧ t = (s.advance rest).hardwareReset) ∨
    (∃ i n rest, t = (s.present n rest).putView n ((s.present n rest).viewAfter i)) ∨
    (∃ n rest cap, t = (s.advance rest).putView n (.cobsd ⟨Decoder.fresh cap, s.outOf .cobsd n⟩)) ∨
    (∃ n rest cap fwd, t = (s.advance rest).putView n (.ckd ⟨Decoder.fresh cap, fwd, s.outOf .ckd n⟩)) := by
  rcases step_cases s with ⟨_, idle⟩ | ⟨n, w, rest, _, ⟨i, _, command⟩ | ⟨why, _, refused⟩⟩ | ⟨rest, presented, reset⟩ |
    ⟨n, cap, rest, _, cobsd⟩ | ⟨n, cap, fwd, rest, _, ckd⟩
  · rw [idle] at steps; cases steps; exact .inl rfl
  · rw [command, exec_eq_putView] at steps; cases steps; exact .inr (.inr (.inl ⟨i, n, rest, rfl⟩))
  · rw [refused] at steps; cases steps
  · rw [reset] at steps; cases steps; exact .inr (.inl ⟨rest, presented, rfl⟩)
  · rw [cobsd] at steps; cases steps; exact .inr (.inr (.inr (.inl ⟨n, rest, cap, rfl⟩)))
  · rw [ckd] at steps; cases steps; exact .inr (.inr (.inr (.inr ⟨n, rest, cap, fwd, rfl⟩)))

/-- Whatever the instance written, what every instance has put out is a beginning of what it has put out after, if that holds of
the instance written. -/
theorem State.outOf_prefix_putView (s : State) (n : Nat) (v : UnitView) (keeps : s.outOf v.kind n <+: v.out)
    (k : UnitKind) (m : Nat) : s.outOf k m <+: (s.putView n v).outOf k m := by
  by_cases written : (k, m) = (v.kind, n)
  · cases written
    rw [State.outOf_eq (s.putView n v), State.view_putView_same]
    exact keeps
  · rw [State.outOf_eq, State.outOf_eq, s.view_putView_other n v k m written]

/-- Settles O56: a command appends, the hardware reset and the creation of a decoder keep what was put out. -/
theorem emittedEventsStay : Obligations.EmittedEventsStay := by
  intro s t steps k m
  rcases step_next_cases s t steps with rfl | ⟨rest, _, rfl⟩ | ⟨i, n, rest, rfl⟩ | ⟨n, rest, cap, rfl⟩ | ⟨n, rest, cap, fwd, rfl⟩
  · exact List.prefix_refl _
  · simp [State.outOf_eq]
  · have keeps := (s.present n rest).outOf_prefix_putView n ((s.present n rest).viewAfter i) ?_ k m
    · rwa [State.outOf_eq, State.view_present, ← State.outOf_eq] at keeps
    · rw [State.viewAfter_kind, State.viewAfter_out]; exact List.prefix_append _ _
  · have keeps := (s.advance rest).outOf_prefix_putView n (.cobsd ⟨Decoder.fresh cap, s.outOf .cobsd n⟩)
      (List.prefix_refl _) k m
    rwa [State.outOf_eq, State.view_advance, ← State.outOf_eq] at keeps
  · have keeps := (s.advance rest).outOf_prefix_putView n (.ckd ⟨Decoder.fresh cap, fwd, s.outOf .ckd n⟩)
      (List.prefix_refl _) k m
    rwa [State.outOf_eq, State.view_advance, ← State.outOf_eq] at keeps

/-! ## The host's side (00_scope.md R8, R11) -/

/-- Settles O4: the decoder's answer is the step's branch. -/
theorem stepRunsTheDecodedCommand : Obligations.StepRunsTheDecodedCommand := by
  intro s n w rest i presented decodes
  simp only [step, State.nextInput, presented, decodes]
  rfl

/-- Settles O5. -/
theorem idleStepChangesNothing : Obligations.IdleStepChangesNothing := by
  intro s nothing
  simp only [step, State.nextInput, nothing]

/-- A command's outcome does not depend on the inputs to come, and leaves them. -/
theorem exec_advance (i : Instr) (s t : State) (rest : List HostInput) (completes : exec i s = .next t) :
    exec i (s.advance rest) = .next (t.advance rest) := by
  rw [exec_eq_putView] at completes
  cases completes
  rw [exec_eq_putView, State.advance_putView]
  simp [State.viewAfter]

theorem run_succ_of_next (M : Host.Core) (k : Nat) (s t : M.State) (steps : M.step s = .next t) :
    M.run (k + 1) s = M.run k t := by
  simp [Host.Core.run, steps]

/-- The step of a presented encoding: its command completes, at the instance presented to. -/
theorem step_encode (i : Instr) (s : State) (n : Nat) (rest : List HostInput)
    (presented : s.stream = .command n (encode i) :: rest) :
    ∃ t, step s = .next t ∧ exec i (s.present n rest) = .next t ∧ t.port = n ∧ t.stream = rest := by
  obtain ⟨t, completes, -, -, port, stream, -⟩ := exec_spec i (s.present n rest)
  exact ⟨t, (stepRunsTheDecodedCommand s n _ rest i presented (decode_encode i)).trans completes, completes, port, stream⟩

/-- Commands at the head of the host's list, presented to the instance at the port, are carried out in order. -/
theorem run_commands (is : List Instr) (s : State) (rest : List HostInput)
    (presented : s.stream = is.map (fun i => .command s.port (encode i)) ++ rest) :
    Host.Core.run core is.length s = execAll is (s.advance rest) := by
  induction is generalizing s with
  | nil =>
    have asItIs : s.advance rest = s := by
      rw [List.map_nil, List.nil_append] at presented
      rw [← presented]; rfl
    rw [asItIs]; rfl
  | cons i is ih =>
    obtain ⟨t, steps, completes, port, stream⟩ := step_encode i s s.port _ presented
    have first := exec_advance i _ t rest completes
    have others := ih t (by rw [stream, port]; rfl)
    exact ((run_succ_of_next core is.length s t steps).trans others).trans
      (execAll_cons_of_next i is (s.advance rest) _ first).symm

/-- Settles O10: the first step presents at the instance `n`, from where `run_commands` goes on. -/
theorem presentedCommandsRunInOrder : Obligations.PresentedCommandsRunInOrder := by
  intro is s n rest nonempty presented
  cases is with
  | nil => exact absurd rfl nonempty
  | cons i is =>
    obtain ⟨t, steps, completes, port, stream⟩ := step_encode i s n _ presented
    have first := exec_advance i _ t rest completes
    have others := run_commands is t rest (by rw [stream, port]; rfl)
    exact ((run_succ_of_next core is.length s t steps).trans others).trans
      (execAll_cons_of_next i is (s.present n rest) _ first).symm

end Sys2Proof.Machine

/-! PROOF. A chunk of commands to one instance (00_scope.md R9): the state after a list of commands, the instance as the effects
taken in order, and the frame. -/

namespace Sys2Proof.Machine

/-! ## A list of commands -/

/-- The state after a list of commands; none stops on the way. -/
def State.execs (s : State) (is : List Instr) : State := is.foldl (fun t i => t.putView t.port (t.viewAfter i)) s

/-- One instance after a list of commands of its kind. -/
def UnitView.run (v : UnitView) (is : List Instr) : UnitView := is.foldl (fun w i => (w.effect i).1.emit (w.effect i).2) v

/-- The frame of a command of the kind `k`. -/
def onlyAt (k : UnitKind) (s t : State) : Prop :=
  match k with
  | .crc16 => onlyCrc16 s t
  | .crc32 => onlyCrc32 s t
  | .cobsd => onlyCobsd s t
  | .cobse => onlyCobse s t
  | .ckd => onlyCkd s t
  | .cke => onlyCke s t

section
variable (s t u : State) (is js : List Instr) (i : Instr) (v : UnitView) (k : UnitKind)

@[simp] theorem State.execs_nil : s.execs [] = s := rfl

theorem State.execs_cons : s.execs (i :: is) = (s.putView s.port (s.viewAfter i)).execs is := rfl

theorem State.execs_append : s.execs (is ++ js) = (s.execs is).execs js := List.foldl_append

@[simp] theorem State.execs_port : (s.execs is).port = s.port := by
  induction is generalizing s with
  | nil => rfl
  | cons i is ih => rw [State.execs_cons, ih, State.putView_port]

theorem execAll_eq_execs : execAll is s = .next (s.execs is) := by
  induction is generalizing s with
  | nil => rfl
  | cons i is ih => rw [execAll_cons_of_next i is s _ (exec_eq_putView i s), ih, State.execs_cons]

@[simp] theorem UnitView.run_nil : v.run [] = v := rfl

@[simp] theorem UnitView.run_cons : v.run (i :: is) = ((v.effect i).1.emit (v.effect i).2).run is := rfl

theorem UnitView.run_append : v.run (is ++ js) = (v.run is).run js := List.foldl_append

theorem onlyAt.refl : onlyAt k s s := by
  cases k <;> exact ⟨⟨rfl, rfl⟩, fun _ _ => rfl, rfl, rfl, rfl, rfl, rfl⟩

variable {s t u k} in
theorem onlyAt.trans (first : onlyAt k s t) (next : onlyAt k t u) : onlyAt k s u := by
  cases k <;>
  · obtain ⟨⟨port, stream⟩, others, bank1, bank2, bank3, bank4, bank5⟩ := first
    obtain ⟨⟨port', stream'⟩, others', bank1', bank2', bank3', bank4', bank5'⟩ := next
    exact ⟨⟨port'.trans port, stream'.trans stream⟩,
      fun n other => (others' n (port ▸ other)).trans (others n other),
      bank1'.trans bank1, bank2'.trans bank2, bank3'.trans bank3, bank4'.trans bank4, bank5'.trans bank5⟩

/-- The write of the instance presented to is in the frame of its kind. -/
theorem onlyAt_putView : onlyAt v.kind s (s.putView s.port v) := by
  cases v with
  | crc16 u => exact ⟨⟨rfl, rfl⟩, fun _ other => s.crc16Of_putCrc16_other _ _ u other, rfl, rfl, rfl, rfl, rfl⟩
  | crc32 u => exact ⟨⟨rfl, rfl⟩, fun _ other => s.crc32Of_putCrc32_other _ _ u other, rfl, rfl, rfl, rfl, rfl⟩
  | cobsd u => exact ⟨⟨rfl, rfl⟩, fun _ other => s.cobsdOf_putCobsd_other _ _ u other, rfl, rfl, rfl, rfl, rfl⟩
  | cobse u => exact ⟨⟨rfl, rfl⟩, fun _ other => s.cobseOf_putCobse_other _ _ u other, rfl, rfl, rfl, rfl, rfl⟩
  | ckd u => exact ⟨⟨rfl, rfl⟩, fun _ other => s.ckdOf_putCkd_other _ _ u other, rfl, rfl, rfl, rfl, rfl⟩
  | cke u => exact ⟨⟨rfl, rfl⟩, fun _ other => s.ckeOf_putCke_other _ _ u other, rfl, rfl, rfl, rfl, rfl⟩

/-- A chunk's commands act on the one instance presented to, one effect after another. -/
theorem State.execs_chunk (ofKind : ∀ i ∈ is, i.unit = k) :
    (s.execs is).view k s.port = (s.view k s.port).run is ∧ onlyAt k s (s.execs is) := by
  induction is generalizing s with
  | nil => exact ⟨rfl, onlyAt.refl s k⟩
  | cons i is ih =>
    obtain ⟨view, frame⟩ := ih (s.putView s.port (s.viewAfter i)) fun j mem => ofKind j (List.mem_cons_of_mem _ mem)
    have kindIs : i.unit = k := ofKind i List.mem_cons_self
    have first : (s.putView s.port (s.viewAfter i)).view k s.port = s.viewAfter i := by
      have := s.view_putView_same s.port (s.viewAfter i)
      rwa [State.viewAfter_kind, kindIs] at this
    have firstFrame := onlyAt_putView s (s.viewAfter i)
    rw [State.viewAfter_kind, kindIs] at firstFrame
    rw [State.putView_port, first] at view
    refine ⟨view.trans ?_, firstFrame.trans frame⟩
    rw [UnitView.run_cons, State.viewAfter, kindIs]

end

/-! ## Chunks of each unit's commands, with the instance as its record -/

section
variable (s : State) (is : List Instr)

theorem execAll_crc16 (u : Crc16Unit) (ofKind : ∀ i ∈ is, i.unit = .crc16)
    (runs : (UnitView.crc16 (s.crc16Of s.port)).run is = .crc16 u) :
    ∃ t, execAll is s = .next t ∧ t.crc16Of s.port = u ∧ onlyCrc16 s t := by
  obtain ⟨view, frame⟩ := s.execs_chunk is .crc16 ofKind
  exact ⟨_, execAll_eq_execs s is, UnitView.crc16.inj (view.trans runs), frame⟩

theorem execAll_crc32 (u : Crc32Unit) (ofKind : ∀ i ∈ is, i.unit = .crc32)
    (runs : (UnitView.crc32 (s.crc32Of s.port)).run is = .crc32 u) :
    ∃ t, execAll is s = .next t ∧ t.crc32Of s.port = u ∧ onlyCrc32 s t := by
  obtain ⟨view, frame⟩ := s.execs_chunk is .crc32 ofKind
  exact ⟨_, execAll_eq_execs s is, UnitView.crc32.inj (view.trans runs), frame⟩

theorem execAll_cobsd (u : CobsdUnit) (ofKind : ∀ i ∈ is, i.unit = .cobsd)
    (runs : (UnitView.cobsd (s.cobsdOf s.port)).run is = .cobsd u) :
    ∃ t, execAll is s = .next t ∧ t.cobsdOf s.port = u ∧ onlyCobsd s t := by
  obtain ⟨view, frame⟩ := s.execs_chunk is .cobsd ofKind
  exact ⟨_, execAll_eq_execs s is, UnitView.cobsd.inj (view.trans runs), frame⟩

theorem execAll_cobse (u : CobseUnit) (ofKind : ∀ i ∈ is, i.unit = .cobse)
    (runs : (UnitView.cobse (s.cobseOf s.port)).run is = .cobse u) :
    ∃ t, execAll is s = .next t ∧ t.cobseOf s.port = u ∧ onlyCobse s t := by
  obtain ⟨view, frame⟩ := s.execs_chunk is .cobse ofKind
  exact ⟨_, execAll_eq_execs s is, UnitView.cobse.inj (view.trans runs), frame⟩

theorem execAll_ckd (u : CkdUnit) (ofKind : ∀ i ∈ is, i.unit = .ckd)
    (runs : (UnitView.ckd (s.ckdOf s.port)).run is = .ckd u) :
    ∃ t, execAll is s = .next t ∧ t.ckdOf s.port = u ∧ onlyCkd s t := by
  obtain ⟨view, frame⟩ := s.execs_chunk is .ckd ofKind
  exact ⟨_, execAll_eq_execs s is, UnitView.ckd.inj (view.trans runs), frame⟩

theorem execAll_cke (u : CkeUnit) (ofKind : ∀ i ∈ is, i.unit = .cke)
    (runs : (UnitView.cke (s.ckeOf s.port)).run is = .cke u) :
    ∃ t, execAll is s = .next t ∧ t.ckeOf s.port = u ∧ onlyCke s t := by
  obtain ⟨view, frame⟩ := s.execs_chunk is .cke ofKind
  exact ⟨_, execAll_eq_execs s is, UnitView.cke.inj (view.trans runs), frame⟩

end

/-! ## The bytes of a chunk through each unit (R9) -/

section
variable (bs : List Byte)

theorem UnitView.run_crc16Upd (u : Crc16Unit) : (UnitView.crc16 u).run (bs.map .crc16Upd) =
    .crc16 { u with reg := crcFeed Config.crc16Poly u.reg bs } := by
  induction bs generalizing u with
  | nil => rfl
  | cons b bs ih =>
    simp only [List.map_cons, UnitView.run_cons, UnitView.effect, UnitView.emit, List.append_nil, ih, crcFeed_cons]

theorem UnitView.run_crc32Upd (u : Crc32Unit) : (UnitView.crc32 u).run (bs.map .crc32Upd) =
    .crc32 { u with reg := crcFeed Config.crc32Poly u.reg bs } := by
  induction bs generalizing u with
  | nil => rfl
  | cons b bs ih =>
    simp only [List.map_cons, UnitView.run_cons, UnitView.effect, UnitView.emit, List.append_nil, ih, crcFeed_cons]

theorem UnitView.run_cobsdByte (u : CobsdUnit) : (UnitView.cobsd u).run (bs.map .cobsdByte) =
    .cobsd { dec := (u.dec.feed bs).1, out := u.out ++ (u.dec.feed bs).2 } := by
  induction bs generalizing u with
  | nil => simp
  | cons b bs ih =>
    simp only [List.map_cons, UnitView.run_cons, UnitView.effect, UnitView.emit, ih, Decoder.feed_cons,
      List.append_assoc]

theorem UnitView.run_cobseData (u : CobseUnit) : (UnitView.cobse u).run (bs.map .cobseData) =
    .cobse { enc := (u.enc.feed bs).1, out := u.out ++ (u.enc.feed bs).2 } := by
  induction bs generalizing u with
  | nil => simp
  | cons b bs ih =>
    simp only [List.map_cons, UnitView.run_cons, UnitView.effect, UnitView.emit, ih, Encoder.feed_cons,
      List.append_assoc]

theorem UnitView.run_ckdByte (u : CkdUnit) : (UnitView.ckd u).run (bs.map .ckdByte) =
    .ckd { u with dec := (u.dec.feed bs).1, out := u.out ++ ckdEvents u.forward (u.dec.feed bs).2 } := by
  induction bs generalizing u with
  | nil => simp
  | cons b bs ih =>
    simp only [List.map_cons, UnitView.run_cons, UnitView.effect, UnitView.emit, ih, Decoder.feed_cons,
      ckdEvents_append, List.append_assoc]

theorem UnitView.run_ckeData (u : CkeUnit) : (UnitView.cke u).run (bs.map .ckeData) =
    .cke { enc := (u.enc.feed bs).1, crc := crcFeed Config.crc16Poly u.crc bs, count := u.count + bs.length,
           out := u.out ++ (u.enc.feed bs).2 } := by
  induction bs generalizing u with
  | nil => simp
  | cons b bs ih =>
    simp only [List.map_cons, UnitView.run_cons, UnitView.effect, CkeUnit.data, UnitView.emit, ih, Encoder.feed_cons,
      crcFeed_cons, List.append_assoc, List.length_cons, Nat.add_assoc, Nat.add_comm 1]

end

/-! ## A chunk's events, and UPDATE of two parts (R9, R113) -/

/-- The events of the command at the place `j` of a list. -/
def eventsAt (s : State) (is : List Instr) (j : Nat) : List Event :=
  match is[j]? with
  | some i => (((s.execs (is.take j)).view i.unit s.port).effect i).2
  | none => []

theorem State.execs_take_succ (s : State) (is : List Instr) (j : Nat) (i : Instr) (at_j : is[j]? = some i) :
    exec i (s.execs (is.take j)) = .next (s.execs (is.take (j + 1))) ∧
    (s.execs (is.take (j + 1))).outOf i.unit s.port =
      (s.execs (is.take j)).outOf i.unit s.port ++ eventsAt s is j := by
  obtain ⟨t, completes, -, out, -⟩ := exec_spec i (s.execs (is.take j))
  have next : s.execs (is.take (j + 1)) = t := by
    rw [List.take_add_one, at_j, State.execs_append]
    have := (exec_eq_putView i (s.execs (is.take j))).symm.trans completes
    injection this
  rw [State.execs_port] at out
  rw [next]
  exact ⟨completes, by rw [out]; simp only [eventsAt, at_j]⟩

/-- The events a chunk has appended after its first `j` commands are those of these commands, in order. -/
theorem State.outOf_execs_take (s : State) (k : UnitKind) (is : List Instr) (ofKind : ∀ i ∈ is, i.unit = k) (j : Nat)
    (within : j ≤ is.length) :
    (s.execs (is.take j)).outOf k s.port = s.outOf k s.port ++ (List.range j).flatMap (eventsAt s is) := by
  induction j with
  | zero => simp
  | succ j ih =>
    have at_j : is[j]? = some is[j] := List.getElem?_eq_getElem within
    obtain ⟨-, out⟩ := s.execs_take_succ is j _ at_j
    rw [ofKind _ (List.getElem_mem within)] at out
    rw [out, ih (Nat.le_of_succ_le within), List.range_succ, List.flatMap_append, List.append_assoc]
    simp

/-- Settles O11: the states are those after the first `j` commands; UPDATE is a chunk of the CRC unit. -/
theorem chunksConcatenate : Obligations.ChunksConcatenate := by
  refine ⟨fun k is s ofKind => ?_, fun s => rfl, fun a b s => ?_, fun a b s => ?_⟩
  · refine ⟨fun j => s.execs (is.take j), eventsAt s is, rfl, fun j i at_j => ?_, ?_, ?_⟩
    · have := s.execs_take_succ is j i at_j
      rwa [ofKind i (List.mem_of_getElem? at_j)] at this
    · simp [execAll_eq_execs]
    · exact s.outOf_execs_take k is ofKind is.length le_rfl
  · obtain ⟨u, completes, unit, frame⟩ := execAll_crc16 s ((a ++ b).map .crc16Upd) _
      (by simp only [List.forall_mem_map]; exact fun _ _ => rfl) (UnitView.run_crc16Upd _ _)
    refine ⟨s.execs (a.map .crc16Upd), u, execAll_eq_execs _ _, ?_, completes, ?_, by rw [unit], frame⟩
    · rwa [execAll_eq_execs, ← State.execs_append, ← List.map_append, ← execAll_eq_execs]
    · rw [unit, crcFeed_append]; rfl
  · obtain ⟨u, completes, unit, frame⟩ := execAll_crc32 s ((a ++ b).map .crc32Upd) _
      (by simp only [List.forall_mem_map]; exact fun _ _ => rfl) (UnitView.run_crc32Upd _ _)
    refine ⟨s.execs (a.map .crc32Upd), u, execAll_eq_execs _ _, ?_, completes, ?_, by rw [unit], frame⟩
    · rwa [execAll_eq_execs, ← State.execs_append, ← List.map_append, ← execAll_eq_execs]
    · rw [unit, crcFeed_append]; rfl

/-! ## Parameters, reset values, creation (10_state.md R32, R34 to R38; 70_reset_and_hazards.md) -/

/-- The capacity and the forwarding parameter of an instance, `(0, false)` for a kind that has neither (R32). -/
def UnitView.params (v : UnitView) : Nat × Bool :=
  match v with
  | .cobsd u => (u.dec.cap, false)
  | .ckd u => (u.dec.cap, u.forward)
  | .crc16 _ | .crc32 _ | .cobse _ | .cke _ => (0, false)

@[simp] theorem UnitView.emit_params (v : UnitView) (evs : List Event) : (v.emit evs).params = v.params := by
  cases v <;> rfl

@[simp] theorem UnitView.effect_params (v : UnitView) (i : Instr) : (v.effect i).1.params = v.params := by
  unfold UnitView.effect
  split <;> simp only [finish_fst, UnitView.params, Decoder.resetCursors_cap, Decoder.byte_cap]

@[simp] theorem UnitView.hardwareReset_params (v : UnitView) : v.hardwareReset.params = v.params := by cases v <;> rfl

theorem exec_params (i : Instr) (s : State) :
    ∃ t, exec i s = .next t ∧ ∀ k n, (t.view k n).params = (s.view k n).params := by
  obtain ⟨t, completes, view, -, -, -, others⟩ := exec_spec i s
  refine ⟨t, completes, fun k n => ?_⟩
  by_cases here : (k, n) = (i.unit, s.port)
  · cases here
    rw [view, State.viewAfter, UnitView.emit_params, UnitView.effect_params]
  · rw [others k n here]

/-- The parameters of the decoders, read off their views. -/
theorem State.params_eq (s t : State) (kept : ∀ k n, (t.view k n).params = (s.view k n).params) (n : Nat) :
    (t.cobsdOf n).dec.cap = (s.cobsdOf n).dec.cap ∧ (t.ckdOf n).dec.cap = (s.ckdOf n).dec.cap ∧
    (t.ckdOf n).forward = (s.ckdOf n).forward :=
  ⟨congrArg Prod.fst (kept .cobsd n), congrArg Prod.fst (kept .ckd n), congrArg Prod.snd (kept .ckd n)⟩

/-- Settles O59. -/
theorem parametersNeverChange : Obligations.ParametersNeverChange := by
  refine ⟨fun i s => ?_, fun s rest presented => ⟨_, step_hardwareReset s rest presented, ?_⟩⟩
  · obtain ⟨t, completes, kept⟩ := exec_params i s
    exact ⟨t, completes, State.params_eq s t kept⟩
  · exact State.params_eq s _ fun k n => by simp

/-- Settles O7: `State.hardwareReset` reads as the reset of each instance, whose fields are R34 to R38's. -/
theorem hardwareResetReachesEveryInstance : Obligations.HardwareResetReachesEveryInstance := by
  intro s rest presented
  refine ⟨_, step_hardwareReset s rest presented, rfl, rfl, fun n => ?_⟩
  simp only [State.crc16Of_hardwareReset, State.crc32Of_hardwareReset, State.cobsdOf_hardwareReset,
    State.cobseOf_hardwareReset, State.ckdOf_hardwareReset, State.ckeOf_hardwareReset]
  exact ⟨rfl, rfl, rfl, rfl, rfl, rfl⟩

/-- Settles O8: every instance of `State.reset` is its kind's reset record. -/
theorem resetStateHoldsTheResetValues : Obligations.ResetStateHoldsTheResetValues :=
  fun n => ⟨rfl, rfl, State.cobsd_atReset_reset n, rfl, Decoder.atReset_resetCursors _, rfl, rfl, rfl, rfl⟩

/-- Settles O9: the creation is the write of one instance, with a decoder whose cursors are reset. -/
theorem createdDecoderHasItsParameters : Obligations.CreatedDecoderHasItsParameters := by
  refine fun s n cap fwd rest => ⟨fun presented => ?_, fun presented => ?_⟩
  · have unit := (s.advance rest).cobsdOf_putCobsd n ⟨Decoder.fresh cap, (s.cobsdOf n).out⟩
    refine ⟨_, step_createCobsd s n cap rest presented, rfl, ?_, ?_, ?_,
      onlyAt_putView (s.present n rest) (.cobsd ⟨Decoder.fresh cap, (s.cobsdOf n).out⟩)⟩
    · exact congrArg (·.dec.cap) unit
    · exact unit ▸ Decoder.atReset_resetCursors _
    · exact congrArg (·.out) unit
  · have unit := (s.advance rest).ckdOf_putCkd n ⟨Decoder.fresh cap, fwd, (s.ckdOf n).out⟩
    refine ⟨_, step_createCkd s n cap fwd rest presented, rfl, ?_, ?_, ?_, ?_,
      onlyAt_putView (s.present n rest) (.ckd ⟨Decoder.fresh cap, fwd, (s.ckdOf n).out⟩)⟩
    · exact congrArg (·.dec.cap) unit
    · exact congrArg (·.forward) unit
    · exact unit ▸ Decoder.atReset_resetCursors _
    · exact congrArg (·.out) unit

/-- Settles O60: tag by tag; the codes of the five errors are the tags from 0x80 on. -/
theorem eventTagsAreAsTabulated : Obligations.EventTagsAreAsTabulated := by
  refine ⟨fun _ => rfl, fun _ => rfl, fun _ => rfl, fun _ => rfl, fun _ => rfl, fun _ => rfl, fun _ => rfl, fun _ => rfl,
    rfl, rfl, fun _ => rfl, fun _ => rfl, rfl, fun ev => ?_⟩
  cases ev with
  | err e => cases e <;> simp [Event.isError, Event.tag, Error.code]
  | _ => simp [Event.isError, Event.tag]

end Sys2Proof.Machine

/-! PROOF. The CRC byte step as algebra (40_crc_accumulator.md R100, R112, R113). The eight shifts are linear over XOR; they are a
plain right shift where the low bits are 0, and lose nothing where the polynomial's top bit is 1. Bytes that together fill at
most the register can be XORed in at once (`crcFeed_eq_crcShifts`), from which VFY's meaning follows for both widths. -/

namespace Sys2Proof.Machine

section
variable {w : Nat} (poly : BitVec w)

/-! ## Linearity -/

theorem crcShift_xor (r1 r2 : BitVec w) : crcShift poly (r1 ^^^ r2) = crcShift poly r1 ^^^ crcShift poly r2 := by
  unfold crcShift
  rw [BitVec.getLsbD_xor, BitVec.ushiftRight_xor_distrib]
  cases r1.getLsbD 0 <;> cases r2.getLsbD 0
  · rfl
  · exact BitVec.xor_assoc _ _ _
  · simp only [Bool.true_xor, Bool.not_false, if_true, Bool.false_eq_true, if_false]; ac_rfl
  · calc r1 >>> 1 ^^^ r2 >>> 1
      _ = (r1 >>> 1 ^^^ r2 >>> 1) ^^^ (poly ^^^ poly) := by rw [BitVec.xor_self, BitVec.xor_zero]
      _ = (r1 >>> 1 ^^^ poly) ^^^ (r2 >>> 1 ^^^ poly) := by ac_rfl

theorem crcShifts_xor (n : Nat) (r1 r2 : BitVec w) :
    crcShifts poly n (r1 ^^^ r2) = crcShifts poly n r1 ^^^ crcShifts poly n r2 := by
  induction n generalizing r1 r2 with
  | zero => rfl
  | succ n ih => rw [crcShifts_succ, crcShift_xor, ih, crcShifts_succ, crcShifts_succ]

/-- Shifts that shift out zeros alone do not meet the polynomial. -/
theorem crcShifts_of_low_zero (n : Nat) (r : BitVec w) (low : ∀ i < n, r.getLsbD i = false) :
    crcShifts poly n r = r >>> n := by
  induction n generalizing r with
  | zero => simp [crcShifts]
  | succ n ih =>
    have first : crcShift poly r = r >>> 1 := by simp [crcShift, low 0]
    have next : ∀ i < n, (r >>> 1).getLsbD i = false := fun i lt => by
      rw [BitVec.getLsbD_ushiftRight]; exact low _ (by omega)
    rw [crcShifts_succ, first, ih _ next, ← BitVec.shiftRight_add, Nat.add_comm]

/-! ## With the polynomial's top bit set nothing is lost -/

variable (top : poly.getLsbD (w - 1) = true)
include top

/-- The bit shifted out comes back as the top bit, so only 0 is shifted to 0. -/
theorem eq_zero_of_crcShift_eq_zero (r : BitVec w) (zero : crcShift poly r = 0) : r = 0 := by
  unfold crcShift at zero
  split at zero
  next one =>
    have topBit := congrArg (·.getLsbD (w - 1)) zero
    have beyond : r.getLsbD (1 + (w - 1)) = false := BitVec.getLsbD_of_ge _ _ (by omega)
    simp [BitVec.getLsbD_xor, beyond, top] at topBit
  next notOne =>
    apply BitVec.eq_of_getLsbD_eq
    intro i lt
    cases i with
    | zero => simpa using notOne
    | succ i => simpa [Nat.add_comm] using congrArg (·.getLsbD i) zero

theorem crcShift_injective : Function.Injective (crcShift poly) := fun a b same =>
  BitVec.xor_eq_zero_iff.1 <| eq_zero_of_crcShift_eq_zero poly top _ <| by
    rw [crcShift_xor, same, BitVec.xor_self]; rfl

theorem crcShifts_injective (n : Nat) : Function.Injective (crcShifts poly n) := by
  induction n with
  | zero => exact Function.injective_id
  | succ n ih => exact ih.comp (crcShift_injective poly top)

theorem crcShifts_bijective (n : Nat) : Function.Bijective (crcShifts poly n) :=
  Finite.injective_iff_bijective.1 (crcShifts_injective poly top n)

theorem crcStep_bijective (b : Byte) : Function.Bijective fun reg => crcStep poly reg b :=
  Finite.injective_iff_bijective.1 fun _ _ same =>
    (BitVec.xor_left_inj _).1 (crcShifts_injective poly top 8 same)

theorem crcStep_byte_injective (wide : 8 ≤ w) (reg : BitVec w) : Function.Injective fun b => crcStep poly reg b :=
  fun b b' same => by
    have extended := (BitVec.xor_right_inj _).1 (crcShifts_injective poly top 8 same)
    have bytes := congrArg (BitVec.setWidth 8) extended
    simpa [BitVec.setWidth_setWidth_of_le _ wide] using bytes

theorem crcFeed_injective (s : List Byte) : Function.Injective fun reg => crcFeed poly reg s := by
  induction s with
  | nil => exact Function.injective_id
  | cons b s ih => exact ih.comp (crcStep_bijective poly top b).1

/-- A changed byte changes the register for good. -/
theorem crcFeed_changed (wide : 8 ≤ w) (reg : BitVec w) (before after : List Byte) (b b' : Byte)
    (same : crcFeed poly reg (before ++ b :: after) = crcFeed poly reg (before ++ b' :: after)) : b = b' := by
  rw [crcFeed_append, crcFeed_append, crcFeed_cons, crcFeed_cons] at same
  exact crcStep_byte_injective poly top wide _ (crcFeed_injective poly top after same)

end

/-- Settles O21. -/
theorem crcStepIsLinear : Obligations.CrcStepIsLinear := by
  intro w poly r1 r2 b1 b2
  unfold crcStep
  rw [← crcShifts_xor, BitVec.setWidth_xor]
  congr 1
  ac_rfl

/-- Settles O22. -/
theorem crcStepIsABijection : Obligations.CrcStepIsABijection :=
  fun _ poly wide top => ⟨crcStep_bijective poly top, crcStep_byte_injective poly top wide⟩

theorem crc16Poly_top : (0x8408#16).getLsbD (16 - 1) = true := by decide

theorem crc32Poly_top : (0xEDB88320#32).getLsbD (32 - 1) = true := by decide

/-- Settles O25: were both sequences to verify, the changed byte would be the same. -/
theorem changedByteIsDetected : Obligations.ChangedByteIsDetected :=
  fun before after b b' changed =>
    ⟨fun verifies verifies' => changed <|
        crcFeed_changed 0x8408#16 crc16Poly_top (by decide) 0xFFFF#16 before after b b' (verifies.trans verifies'.symm),
     fun verifies verifies' => changed <|
        crcFeed_changed 0xEDB88320#32 crc32Poly_top (by decide) 0xFFFFFFFF#32 before after b b'
          (verifies.trans verifies'.symm)⟩

/-! ## The table form (R112) -/

/-- The register splits into its low byte, which the shifts look up, and the rest, which they move down. -/
theorem crcShifts_eight_split {w : Nat} (poly x : BitVec w) :
    crcShifts poly 8 x = crcShifts poly 8 ((x.setWidth 8).setWidth w) ^^^ (x >>> 8) := by
  have split : x = (x.setWidth 8).setWidth w ^^^ (x ^^^ (x.setWidth 8).setWidth w) := by
    rw [BitVec.xor_comm x, ← BitVec.xor_assoc, BitVec.xor_self, BitVec.zero_xor]
  have high : crcShifts poly 8 (x ^^^ (x.setWidth 8).setWidth w) = x >>> 8 := by
    rw [crcShifts_of_low_zero]
    · apply BitVec.eq_of_getLsbD_eq
      intro i _
      simp
    · intro i lt
      simp only [BitVec.getLsbD_xor, BitVec.getLsbD_setWidth, lt, decide_true, Bool.true_and]
      by_cases inside : i < w
      · simp [inside]
      · simp [BitVec.getLsbD_of_ge x i (by omega)]
  conv => lhs; rw [split, crcShifts_xor, high]

/-- Settles O26: the split of the register, and the entries computed. -/
theorem tableFormEqualsTheBitLoop : Obligations.TableFormEqualsTheBitLoop := by
  refine ⟨fun w poly reg b wide => ?_, by decide, by decide⟩
  have byteGone : (reg ^^^ b.setWidth w) >>> 8 = reg >>> 8 := by
    apply BitVec.eq_of_getLsbD_eq
    intro i _
    simp
  unfold crcStep
  rw [crcShifts_eight_split, byteGone, show (0 : BitVec w) = 0#w from rfl, BitVec.zero_xor]

/-! ## Little-endian words (20_memory.md R52) -/

/-- The bytes of a sequence in a register, the first one lowest. -/
def leWord (w : Nat) (s : List Byte) : BitVec w :=
  match s with
  | [] => 0
  | b :: rest => b.setWidth w ^^^ (leWord w rest <<< 8)

section
variable {w : Nat}

theorem leWord_high (s : List Byte) (i : Nat) (beyond : 8 * s.length ≤ i) : (leWord w s).getLsbD i = false := by
  induction s generalizing i with
  | nil => simp [leWord]
  | cons b s ih =>
    rw [List.length_cons] at beyond
    simp [leWord, ih (i - 8) (by omega), BitVec.getLsbD_of_ge b i (by omega)]

theorem leWord_cons_ushiftRight (b : Byte) (s : List Byte) (fits : 8 * (s.length + 1) ≤ w) :
    leWord w (b :: s) >>> 8 = leWord w s := by
  apply BitVec.eq_of_getLsbD_eq
  intro i _
  by_cases inside : 8 + i < w
  · simp [leWord, inside, -BitVec.getLsbD_eq_getElem]
  · simp [leWord, inside, leWord_high s i (by omega), -BitVec.getLsbD_eq_getElem]

theorem byteOf_leWord_cons (b : Byte) (s : List Byte) (fits : 8 ≤ w) : byteOf (leWord w (b :: s)) 0 = b := by
  apply BitVec.eq_of_getLsbD_eq
  intro i lt
  simp [byteOf, leWord, lt, show i < w by omega]

/-- Sequences of one length that fit the register are told apart by it. -/
theorem leWord_injective (s t : List Byte) (sameLength : s.length = t.length) (fits : 8 * s.length ≤ w)
    (same : leWord w s = leWord w t) : s = t := by
  induction s generalizing t with
  | nil => exact (List.length_eq_zero_iff.1 sameLength.symm).symm
  | cons b s ih =>
    cases t with
    | nil => cases sameLength
    | cons c t =>
      rw [List.length_cons] at fits sameLength
      have length : s.length = t.length := Nat.succ.inj sameLength
      have low := congrArg (byteOf · 0) same
      have high := congrArg (fun v : BitVec w => v >>> 8) same
      simp only [byteOf_leWord_cons _ _ (show 8 ≤ w by omega)] at low
      simp only [leWord_cons_ushiftRight _ _ fits, leWord_cons_ushiftRight c t (length ▸ fits)] at high
      rw [low, ih t length (by omega) high]

theorem byteOf_succ (v : BitVec w) (k : Nat) : byteOf v (k + 1) = byteOf (v >>> 8) k := by
  apply BitVec.eq_of_getLsbD_eq
  intro i _
  simp [byteOf, Nat.mul_add, Nat.add_comm, Nat.add_left_comm]

theorem leWord_byteOf_cons (v : BitVec w) (s : List Byte) (rest : leWord w s = v >>> 8) :
    leWord w (byteOf v 0 :: s) = v := by
  apply BitVec.eq_of_getLsbD_eq
  intro i lt
  by_cases low : i < 8
  · simp [leWord, byteOf, low, lt]
  · simp [leWord, byteOf, low, lt, rest, show 8 + (i - 8) = i by omega]

end

theorem leWord_leBytes16 (v : BitVec 16) : leWord 16 (leBytes16 v) = v := by
  refine leWord_byteOf_cons v _ ?_
  rw [byteOf_succ]
  refine leWord_byteOf_cons _ _ ?_
  rw [← BitVec.shiftRight_add, BitVec.ushiftRight_eq_zero (by omega)]
  rfl

theorem leWord_leBytes32 (v : BitVec 32) : leWord 32 (leBytes32 v) = v := by
  refine leWord_byteOf_cons v _ ?_
  rw [byteOf_succ v 0, byteOf_succ v 1, byteOf_succ v 2]
  refine leWord_byteOf_cons _ _ ?_
  rw [byteOf_succ _ 0, byteOf_succ _ 1]
  refine leWord_byteOf_cons _ _ ?_
  rw [byteOf_succ _ 0]
  refine leWord_byteOf_cons _ _ ?_
  rw [← BitVec.shiftRight_add, ← BitVec.shiftRight_add, ← BitVec.shiftRight_add,
    BitVec.ushiftRight_eq_zero (by omega)]
  rfl

theorem leWord_eq_iff_leBytes16 (x y : Byte) (v : BitVec 16) : leWord 16 [x, y] = v ↔ [x, y] = leBytes16 v :=
  ⟨fun word => leWord_injective (w := 16) _ _ rfl (by simp) (word.trans (leWord_leBytes16 v).symm),
   fun bytes => bytes ▸ leWord_leBytes16 v⟩

theorem leWord_eq_iff_leBytes32 (x y z u : Byte) (v : BitVec 32) :
    leWord 32 [x, y, z, u] = v ↔ [x, y, z, u] = leBytes32 v :=
  ⟨fun word => leWord_injective (w := 32) _ _ rfl (by simp) (word.trans (leWord_leBytes32 v).symm),
   fun bytes => bytes ▸ leWord_leBytes32 v⟩

/-- Settles O29: the bytes are the base-256 digits. -/
theorem byteSequencesAreLittleEndian : Obligations.ByteSequencesAreLittleEndian := by
  refine ⟨fun v => ⟨_, _, leBytes16_eq_ofNat v, ?_⟩, fun v => ⟨_, _, _, _, leBytes32_eq_ofNat v, ?_⟩⟩ <;>
  · have small := v.isLt
    simp only [BitVec.toNat_ofNat]
    omega

/-! ## A whole register of bytes at once -/

theorem crcFeed_eq_crcShifts {w : Nat} (poly r : BitVec w) (s : List Byte) (fits : 8 * s.length ≤ w) :
    crcFeed poly r s = crcShifts poly (8 * s.length) (r ^^^ leWord w s) := by
  induction s generalizing r with
  | nil => simp [leWord, crcShifts]
  | cons b s ih =>
    rw [List.length_cons] at fits
    have moved : crcShifts poly 8 (leWord w s <<< 8) = leWord w s := by
      rw [crcShifts_of_low_zero _ _ _ (fun i lt => by simp [lt])]
      apply BitVec.eq_of_getLsbD_eq
      intro i _
      by_cases inside : 8 + i < w
      · simp [inside, -BitVec.getLsbD_eq_getElem]
      · simp [inside, leWord_high s i (by omega), -BitVec.getLsbD_eq_getElem]
    calc crcFeed poly r (b :: s)
      _ = crcShifts poly (8 * s.length) (crcShifts poly 8 (r ^^^ b.setWidth w) ^^^ leWord w s) := ih _ (by omega)
      _ = crcShifts poly (8 * s.length) (crcShifts poly 8 ((r ^^^ b.setWidth w) ^^^ leWord w s <<< 8)) := by
        rw [crcShifts_xor poly 8 _ (leWord w s <<< 8), moved]
      _ = crcShifts poly (8 * (s.length + 1)) (r ^^^ leWord w (b :: s)) := by
        rw [← crcShifts_add, Nat.mul_succ, Nat.add_comm 8, leWord, BitVec.xor_assoc]

/-- Register-filling bytes bring the register to what all ones give exactly when they are the complement of what it held. -/
theorem crcFeed_fill_iff {w : Nat} (poly r ones : BitVec w) (top : poly.getLsbD (w - 1) = true) (s : List Byte)
    (fills : 8 * s.length = w) :
    crcFeed poly r s = crcShifts poly w ones ↔ leWord w s = r ^^^ ones := by
  rw [crcFeed_eq_crcShifts poly r s fills.le, fills, (crcShifts_injective poly top w).eq_iff]
  constructor <;> intro same
  · rw [← same, ← BitVec.xor_assoc, BitVec.xor_self, BitVec.zero_xor]
  · rw [same, ← BitVec.xor_assoc, BitVec.xor_self, BitVec.zero_xor]

/-- The two residues are what the all-ones register is shifted to (R103), computed byte by byte. -/
theorem crc16Residue_eq : 0xF0B8#16 = crcShifts 0x8408#16 16 0xFFFF#16 := by
  have first : crcShifts 0x8408#16 8 0xFFFF#16 = 0x0F87#16 := by decide
  have second : crcShifts 0x8408#16 8 0x0F87#16 = 0xF0B8#16 := by decide
  rw [crcShifts_add _ 8 8, first, second]

theorem crc32Residue_eq : 0xDEBB20E3#32 = crcShifts 0xEDB88320#32 32 0xFFFFFFFF#32 := by
  have first : crcShifts 0xEDB88320#32 8 0xFFFFFFFF#32 = 0x2DFD1072#32 := by decide
  have second : crcShifts 0xEDB88320#32 8 0x2DFD1072#32 = 0xBE26ED00#32 := by decide
  have third : crcShifts 0xEDB88320#32 8 0xBE26ED00#32 = 0x00BE26ED#32 := by decide
  have fourth : crcShifts 0xEDB88320#32 8 0x00BE26ED#32 = 0xDEBB20E3#32 := by decide
  rw [crcShifts_add _ 8 24, crcShifts_add _ 8 16, crcShifts_add _ 8 8, first, second, third, fourth]

/-- Two bytes after a message verify exactly when they are its FIN value (R107). -/
theorem crcFeed16_residue_iff (r : BitVec 16) (x y : Byte) :
    crcFeed 0x8408#16 r [x, y] = 0xF0B8#16 ↔ [x, y] = leBytes16 (r ^^^ 0xFFFF#16) := by
  rw [crc16Residue_eq, crcFeed_fill_iff _ _ _ crc16Poly_top _ rfl, leWord_eq_iff_leBytes16]

/-- The same of four bytes for CRC32 (R111). -/
theorem crcFeed32_residue_iff (r : BitVec 32) (x y z v : Byte) :
    crcFeed 0xEDB88320#32 r [x, y, z, v] = 0xDEBB20E3#32 ↔ [x, y, z, v] = leBytes32 (r ^^^ 0xFFFFFFFF#32) := by
  rw [crc32Residue_eq, crcFeed_fill_iff _ _ _ crc32Poly_top _ rfl, leWord_eq_iff_leBytes32]

end Sys2Proof.Machine

/-! PROOF. The CRC commands (40_crc_accumulator.md R105, R107, R109, R111) and what they make of whole messages (R21, R103, R107,
R113, R114). -/

namespace Sys2Proof.Machine

/-! ## UPD and VFY -/

/-- Settles O13: the commit of the byte step, whose eight shifts are `crcShifts`. -/
theorem crc16UpdFoldsTheByte : Obligations.Crc16UpdFoldsTheByte := by
  refine ⟨decode_crc16Upd, fun b s => ?_⟩
  obtain ⟨t, completes, reg, out, frame⟩ :=
    s.commitCrc16_only ({ s.crc16Of s.port with reg := crcStep Config.crc16Poly (s.crc16Of s.port).reg b }, [])
  exact ⟨t, completes, reg, by rw [out, List.append_nil], frame⟩

/-- Settles O17: as O13 on 32 bits. -/
theorem crc32UpdFoldsTheByte : Obligations.Crc32UpdFoldsTheByte := by
  refine ⟨decode_crc32Upd, fun b s => ?_⟩
  obtain ⟨t, completes, reg, out, frame⟩ :=
    s.commitCrc32_only ({ s.crc32Of s.port with reg := crcStep Config.crc32Poly (s.crc32Of s.port).reg b }, [])
  exact ⟨t, completes, reg, by rw [out, List.append_nil], frame⟩

/-- Settles O15: the commit of the unit as it was, with the comparison's BOOL. -/
theorem crc16VfyComparesWithTheResidue : Obligations.Crc16VfyComparesWithTheResidue :=
  ⟨decode_encode Instr.crc16Vfy, fun s => s.commitCrc16_only (s.crc16Of s.port, [Event.bool (verifyOk16 (s.crc16Of s.port).reg)])⟩

/-- Settles O19: as O15 on 32 bits. -/
theorem crc32VfyComparesWithTheResidue : Obligations.Crc32VfyComparesWithTheResidue :=
  ⟨decode_encode Instr.crc32Vfy, fun s => s.commitCrc32_only (s.crc32Of s.port, [Event.bool (verifyOk32 (s.crc32Of s.port).reg)])⟩

/-! ## A message through the accumulator -/

/-- RST and UPDATE of a message, then other commands: they start from the register fed with the message. -/
theorem UnitView.run_crc16Message (u : Crc16Unit) (message : List Byte) (tail : List Instr) :
    (UnitView.crc16 u).run (Instr.crc16Rst :: message.map Instr.crc16Upd ++ tail) =
      (UnitView.crc16 { u with reg := crcFeed 0x8408#16 0xFFFF#16 message }).run tail := by
  rw [List.cons_append, UnitView.run_cons, UnitView.run_append]
  simp only [UnitView.effect, UnitView.emit, List.append_nil, UnitView.run_crc16Upd]
  rfl

theorem UnitView.run_crc32Message (u : Crc32Unit) (message : List Byte) (tail : List Instr) :
    (UnitView.crc32 u).run (Instr.crc32Rst :: message.map Instr.crc32Upd ++ tail) =
      (UnitView.crc32 { u with reg := crcFeed 0xEDB88320#32 0xFFFFFFFF#32 message }).run tail := by
  rw [List.cons_append, UnitView.run_cons, UnitView.run_append]
  simp only [UnitView.effect, UnitView.emit, List.append_nil, UnitView.run_crc32Upd]
  rfl

theorem UnitView.run_crc16Seq (u : Crc16Unit) :
    (UnitView.crc16 u).run [Instr.crc16Fin 1] =
      .crc16 { u with out := u.out ++ [Event.bytes (leBytes16 (u.reg ^^^ 0xFFFF#16))] } := by
  simp only [UnitView.run_cons, UnitView.effect, finish_eq_ite]
  rfl

theorem UnitView.run_crc32Seq (u : Crc32Unit) :
    (UnitView.crc32 u).run [Instr.crc32Fin 1] =
      .crc32 { u with out := u.out ++ [Event.bytes (leBytes32 (u.reg ^^^ 0xFFFFFFFF#32))] } := by
  simp only [UnitView.run_cons, UnitView.effect, finish_eq_ite]
  rfl

/-- UPDATE of a suffix, then VFY: the BOOL compares the register fed with the suffix. -/
theorem UnitView.run_crc16Check (u : Crc16Unit) (suffix : List Byte) :
    (UnitView.crc16 u).run (suffix.map Instr.crc16Upd ++ [Instr.crc16Vfy]) =
      .crc16 ⟨crcFeed 0x8408#16 u.reg suffix, u.out ++ [Event.bool (crcFeed 0x8408#16 u.reg suffix == 0xF0B8#16)]⟩ := by
  rw [UnitView.run_append, UnitView.run_crc16Upd]
  rfl

theorem UnitView.run_crc32Check (u : Crc32Unit) (suffix : List Byte) :
    (UnitView.crc32 u).run (suffix.map Instr.crc32Upd ++ [Instr.crc32Vfy]) =
      .crc32 ⟨crcFeed 0xEDB88320#32 u.reg suffix,
        u.out ++ [Event.bool (crcFeed 0xEDB88320#32 u.reg suffix == 0xDEBB20E3#32)]⟩ := by
  rw [UnitView.run_append, UnitView.run_crc32Upd]
  rfl

/-- RST, UPDATE of a message and FIN SEQ put out the little-endian FIN value (R106). -/
theorem execAll_crc16MessageSeq (s : State) (message : List Byte) :
    let r := crcFeed 0x8408#16 0xFFFF#16 message
    ∃ t, execAll (Instr.crc16Rst :: message.map Instr.crc16Upd ++ [Instr.crc16Fin 1]) s = .next t ∧
      t.crc16Of s.port = ⟨r, (s.crc16Of s.port).out ++ [Event.bytes (leBytes16 (r ^^^ 0xFFFF#16))]⟩ ∧ onlyCrc16 s t :=
  execAll_crc16 s _ _ (by simp [or_imp, forall_and, Instr.unit])
    ((UnitView.run_crc16Message _ message _).trans (UnitView.run_crc16Seq _))

theorem execAll_crc32MessageSeq (s : State) (message : List Byte) :
    let r := crcFeed 0xEDB88320#32 0xFFFFFFFF#32 message
    ∃ t, execAll (Instr.crc32Rst :: message.map Instr.crc32Upd ++ [Instr.crc32Fin 1]) s = .next t ∧
      t.crc32Of s.port = ⟨r, (s.crc32Of s.port).out ++ [Event.bytes (leBytes32 (r ^^^ 0xFFFFFFFF#32))]⟩ ∧ onlyCrc32 s t :=
  execAll_crc32 s _ _ (by simp [or_imp, forall_and, Instr.unit])
    ((UnitView.run_crc32Message _ message _).trans (UnitView.run_crc32Seq _))

/-- UPDATE of a suffix and VFY put out whether the register fed with it is the residue (R107). -/
theorem execAll_crc16Check (s : State) (suffix : List Byte) :
    let r := crcFeed 0x8408#16 (s.crc16Of s.port).reg suffix
    ∃ t, execAll (suffix.map Instr.crc16Upd ++ [Instr.crc16Vfy]) s = .next t ∧
      t.crc16Of s.port = ⟨r, (s.crc16Of s.port).out ++ [Event.bool (r == 0xF0B8#16)]⟩ ∧ onlyCrc16 s t :=
  execAll_crc16 s _ _ (by simp [or_imp, forall_and, Instr.unit]) (UnitView.run_crc16Check _ suffix)

theorem execAll_crc32Check (s : State) (suffix : List Byte) :
    let r := crcFeed 0xEDB88320#32 (s.crc32Of s.port).reg suffix
    ∃ t, execAll (suffix.map Instr.crc32Upd ++ [Instr.crc32Vfy]) s = .next t ∧
      t.crc32Of s.port = ⟨r, (s.crc32Of s.port).out ++ [Event.bool (r == 0xDEBB20E3#32)]⟩ ∧ onlyCrc32 s t :=
  execAll_crc32 s _ _ (by simp [or_imp, forall_and, Instr.unit]) (UnitView.run_crc32Check _ suffix)

theorem execAll_crc16MessageCheck (s : State) (message suffix : List Byte) :
    let r := crcFeed 0x8408#16 0xFFFF#16 (message ++ suffix)
    ∃ t, execAll (Instr.crc16Rst :: message.map Instr.crc16Upd ++ (suffix.map Instr.crc16Upd ++ [Instr.crc16Vfy])) s = .next t ∧
      t.crc16Of s.port = ⟨r, (s.crc16Of s.port).out ++ [Event.bool (r == 0xF0B8#16)]⟩ ∧ onlyCrc16 s t := by
  rw [crcFeed_append]
  exact execAll_crc16 s _ _ (by simp [or_imp, forall_and, Instr.unit])
    ((UnitView.run_crc16Message _ message _).trans (UnitView.run_crc16Check _ suffix))

theorem execAll_crc32MessageCheck (s : State) (message suffix : List Byte) :
    let r := crcFeed 0xEDB88320#32 0xFFFFFFFF#32 (message ++ suffix)
    ∃ t, execAll (Instr.crc32Rst :: message.map Instr.crc32Upd ++ (suffix.map Instr.crc32Upd ++ [Instr.crc32Vfy])) s = .next t ∧
      t.crc32Of s.port = ⟨r, (s.crc32Of s.port).out ++ [Event.bool (r == 0xDEBB20E3#32)]⟩ ∧ onlyCrc32 s t := by
  rw [crcFeed_append]
  exact execAll_crc32 s _ _ (by simp [or_imp, forall_and, Instr.unit])
    ((UnitView.run_crc32Message _ message _).trans (UnitView.run_crc32Check _ suffix))

/-! ## What verifies -/

/-- Settles O20: after the message, `crcFeed16_residue_iff` and `crcFeed32_residue_iff` say which suffix gives the residue. -/
theorem suffixVerifiesIffItIsTheFinValue : Obligations.SuffixVerifiesIffItIsTheFinValue := by
  refine ⟨fun s message => ?_, fun s message => ?_⟩
  · obtain ⟨u, completes, unit, -⟩ := execAll_crc16MessageSeq s message
    refine ⟨u, _, completes, by rw [unit], rfl, fun x y => ?_⟩
    have residue := crcFeed16_residue_iff (crcFeed 0x8408#16 0xFFFF#16 message) x y
    rw [← crcFeed_append] at residue
    obtain ⟨t, checks, unit', frame⟩ := execAll_crc16MessageCheck s message [x, y]
    refine ⟨t, checks, by rw [unit'], by rw [unit']; exact residue, ?_, frame⟩
    rw [unit', ← decide_eq_decide.2 residue]; rfl
  · obtain ⟨u, completes, unit, -⟩ := execAll_crc32MessageSeq s message
    refine ⟨u, _, completes, by rw [unit], rfl, fun x y z v => ?_⟩
    have residue := crcFeed32_residue_iff (crcFeed 0xEDB88320#32 0xFFFFFFFF#32 message) x y z v
    rw [← crcFeed_append] at residue
    obtain ⟨t, checks, unit', frame⟩ := execAll_crc32MessageCheck s message [x, y, z, v]
    refine ⟨t, checks, by rw [unit'], by rw [unit']; exact residue, ?_, frame⟩
    rw [unit', ← decide_eq_decide.2 residue]; rfl

/-- Settles O23: the suffix of O20 that FIN itself put out. -/
theorem crc16VerifiesItsOwnBytes : Obligations.Crc16VerifiesItsOwnBytes := by
  intro s message
  obtain ⟨t, completes, unit, frame⟩ := execAll_crc16MessageSeq s message
  have residue := (crcFeed16_residue_iff (crcFeed 0x8408#16 0xFFFF#16 message) _ _).2 rfl
  obtain ⟨t', checks, unit', frame'⟩ :=
    execAll_crc16Check t (leBytes16 (crcFeed 0x8408#16 0xFFFF#16 message ^^^ 0xFFFF#16))
  rw [frame.1.1, unit] at unit'
  refine ⟨t, _, completes, by rw [unit], rfl, t', checks, by rw [unit']; exact residue, ?_,
    onlyAt.trans (k := .crc16) frame frame'⟩
  rw [unit', unit]
  exact congrArg (fun r => _ ++ [Event.bool (r == 0xF0B8#16)]) residue

/-- Settles O24: as O23 with four bytes. -/
theorem crc32VerifiesItsOwnBytes : Obligations.Crc32VerifiesItsOwnBytes := by
  intro s message
  obtain ⟨t, completes, unit, frame⟩ := execAll_crc32MessageSeq s message
  have residue := (crcFeed32_residue_iff (crcFeed 0xEDB88320#32 0xFFFFFFFF#32 message) _ _ _ _).2 rfl
  obtain ⟨t', checks, unit', frame'⟩ :=
    execAll_crc32Check t (leBytes32 (crcFeed 0xEDB88320#32 0xFFFFFFFF#32 message ^^^ 0xFFFFFFFF#32))
  rw [frame.1.1, unit] at unit'
  refine ⟨t, _, completes, by rw [unit], rfl, t', checks, by rw [unit']; exact residue, ?_,
    onlyAt.trans (k := .crc32) frame frame'⟩
  rw [unit', unit]
  exact congrArg (fun r => _ ++ [Event.bool (r == 0xDEBB20E3#32)]) residue

/-! ## Which registers and which polynomial (R21, R114) -/

/-- Two bytes bring the all-ones register anywhere: sixteen shifts are a bijection, and the bytes put any value in front. -/
theorem exists_crcFeed16_eq (v : BitVec 16) : ∃ x y, crcFeed 0x8408#16 0xFFFF#16 [x, y] = v := by
  obtain ⟨filled, shifted⟩ := (crcShifts_bijective 0x8408#16 crc16Poly_top 16).2 v
  refine ⟨_, _, (?_ : crcFeed _ _ (leBytes16 (0xFFFF#16 ^^^ filled)) = v)⟩
  rw [crcFeed_eq_crcShifts _ _ _ (by simp), leWord_leBytes16, ← BitVec.xor_assoc, BitVec.xor_self, BitVec.zero_xor]
  exact shifted

/-- Settles O28. -/
theorem everyCrc16RegisterIsReachable : Obligations.EveryCrc16RegisterIsReachable := by
  intro s v
  obtain ⟨x, y, reached⟩ := exists_crcFeed16_eq v
  obtain ⟨t, completes, unit, -⟩ := execAll_crc16 s [Instr.crc16Rst, Instr.crc16Upd x, Instr.crc16Upd y]
    { s.crc16Of s.port with reg := crcFeed 0x8408#16 0xFFFF#16 [x, y] } (by simp [Instr.unit])
    (by simp only [UnitView.run_cons, UnitView.effect, UnitView.emit, List.append_nil, UnitView.run_nil]; rfl)
  exact ⟨x, y, t, completes, by rw [unit, reached]⟩

/-- The last four shifts to 0x0F87 shift zeros out: before them the register was 0xF870. -/
theorem crcShifts_four_of_vector (poly : BitVec 16) (top : poly.getLsbD 15 = true)
    (vector : crcStep poly 0xFFFF#16 0x00#8 = 0x0F87#16) : crcShifts poly 4 0xFFFF#16 = 0xF870#16 := by
  refine crcShifts_injective poly top 4 ?_
  have zeros : crcShifts poly 4 0xF870#16 = 0x0F87#16 := crcShifts_of_low_zero poly 4 _ (by decide)
  rw [zeros, ← crcShifts_add, ← vector]
  rfl

theorem getLsbD_crcShift {w : Nat} (poly r : BitVec w) (i : Nat) :
    (crcShift poly r).getLsbD i = (r.getLsbD (i + 1) ^^ (r.getLsbD 0 && poly.getLsbD i)) := by
  unfold crcShift
  cases r.getLsbD 0 <;> simp [Nat.add_comm 1]

/-- The first four shifts determine the polynomial: its bits 0 and 1 say which of them XOR it in, after which each bit of the
register gives the next bit of the polynomial. -/
theorem poly_of_crcShifts_four (poly : BitVec 16) (shifted : crcShifts poly 4 0xFFFF#16 = 0xF870#16) :
    poly = 0x8408#16 := by
  have bits : ∀ i : Fin 16, (crcShifts poly 4 0xFFFF#16).getLsbD i = (0xF870#16).getLsbD i := fun i => by rw [shifted]
  have ext (same : ∀ i : Fin 16, poly.getLsbD i = (0x8408#16).getLsbD i) : poly = 0x8408#16 :=
    BitVec.eq_of_getLsbD_eq fun i lt => same ⟨i, lt⟩
  refine ext ?_
  simp only [crcShifts, getLsbD_crcShift, Fin.forall_fin_succ] at bits ⊢
  cases bit0 : poly.getLsbD 0 <;> cases bit1 : poly.getLsbD 1
  all_goals
    simp [bit0, bit1, -BitVec.getLsbD_eq_getElem] at bits ⊢
    grind

/-- Settles O27: the vector gives the register after four shifts, and that the polynomial. -/
theorem crc16PolynomialIsForcedByTheVector : Obligations.Crc16PolynomialIsForcedByTheVector :=
  ⟨by decide, fun poly vector top => poly_of_crcShifts_four poly (crcShifts_four_of_vector poly top vector)⟩

end Sys2Proof.Machine

/-! PROOF. One byte of a COBS decoder (41_cobs_decoder.md R131 to R138, R141): the flush without its case distinction, the four
cases of a byte as equations, and the statements about COBSD.BYTE. -/

namespace Sys2Proof.Machine

section
variable (d : Decoder) (b : Byte)

/-! ## The sub-operations field by field (R134, R135, R137) -/

theorem Decoder.pending_eq : d.pending = d.blockIndex - d.blockStart := rfl

theorem Decoder.fitting_eq : d.fitting = min d.pending (d.cap - d.packetIndex) := rfl

@[simp] theorem Decoder.flush_packetIndex : d.flush.1.packetIndex = d.packetIndex + d.fitting := by
  rcases d.flush_cases with ⟨none, flush⟩ | ⟨_, _, _, index, _, _⟩
  · rw [flush, d.fitting_eq, none, Nat.zero_min, Nat.add_zero]
  · exact index

@[simp] theorem Decoder.flush_totalLength : d.flush.1.totalLength = d.totalLength + d.pending := by
  rcases d.flush_cases with ⟨none, flush⟩ | ⟨_, _, _, _, total, _⟩
  · rw [flush, none, Nat.add_zero]
  · exact total

@[simp] theorem Decoder.flush_pkt :
    d.flush.1.pkt = Memory.copy d.blk d.blockStart d.pkt d.packetIndex d.fitting := by
  rcases d.flush_cases with ⟨none, flush⟩ | ⟨_, _, _, _, _, pkt⟩
  · rw [flush, d.fitting_eq, none, Nat.zero_min]; rfl
  · exact pkt

theorem Decoder.flush_events : d.flush.2 = if d.pending = 0 then [] else [.block d.fitting] := by
  rcases d.flush_cases with ⟨none, flush⟩ | ⟨some, events, _⟩
  · rw [flush, if_pos none]
  · rw [events, if_neg some.ne']

theorem Decoder.deliver_events : d.deliver.2 =
    if d.totalLength = 0 then []
    else if d.totalLength = d.packetIndex then [.packet (d.pkt.slice 0 d.packetIndex)]
    else [.err (.overflow d.totalLength)] := by
  rcases d.deliver_cases with ⟨empty, events⟩ | ⟨some, fits, events⟩ | ⟨some, tooLong, events⟩
  · rw [events, if_pos empty]
  · rw [events, if_neg some.ne', if_pos fits]
  · rw [events, if_neg some.ne', if_neg tooLong]

theorem Decoder.implicitZero_blockIndex :
    d.implicitZero.blockIndex = if d.blockLength ≠ 255 then d.blockIndex + 1 else d.blockIndex := by
  rcases d.implicitZero_cases with ⟨full, same⟩ | ⟨short, zero⟩
  · rw [same, if_neg (not_not.2 full)]
  · rw [zero, if_pos short]

theorem Decoder.implicitZero_blk_read (i : Nat) : d.implicitZero.blk.read i =
    if d.blockLength ≠ 255 ∧ i = d.blockIndex then 0x00#8 else d.blk.read i := by
  rcases d.implicitZero_cases with ⟨full, same⟩ | ⟨short, zero⟩
  · rw [same, if_neg (fun both => both.1 full)]
  · rw [zero, Memory.read_write]
    simp only [short, ne_eq, not_false_eq_true, true_and]
    rfl

theorem Decoder.implicitZero_pending :
    d.implicitZero.pending = (if d.blockLength ≠ 255 then d.blockIndex + 1 else d.blockIndex) - d.blockStart := by
  rw [Decoder.pending_eq, d.implicitZero_blockIndex, d.implicitZero_blockStart]

theorem Decoder.implicitZero_fitting :
    d.implicitZero.fitting = min d.implicitZero.pending (d.cap - d.packetIndex) := by
  rw [Decoder.fitting_eq, d.implicitZero_cap, d.implicitZero_packetIndex]

/-! ## The cases of a byte (R131) -/

theorem Decoder.byte_of_lt (inBlock : d.blockIndex < d.blockLength) (nonzero : b ≠ 0) :
    d.byte b = (d.storeLiteral b, []) := by
  rcases d.byte_cases b with ⟨_, zero, _⟩ | ⟨_, _, literal⟩ | ⟨atControl, _, _⟩ | ⟨atControl, _, _⟩
  · exact absurd zero nonzero
  · exact literal
  · exact absurd inBlock atControl
  · exact absurd inBlock atControl

theorem Decoder.byte_zero_of_not_lt (atControl : ¬ d.blockIndex < d.blockLength) : d.byte 0 = d.delimiter := by
  rcases d.byte_cases 0 with ⟨inBlock, _, _⟩ | ⟨inBlock, _, _⟩ | ⟨_, _, delimiter⟩ | ⟨_, nonzero, _⟩
  · exact absurd inBlock atControl
  · exact absurd inBlock atControl
  · exact delimiter
  · exact absurd rfl nonzero

theorem Decoder.byte_of_not_lt (atControl : ¬ d.blockIndex < d.blockLength) (nonzero : b ≠ 0) :
    d.byte b = d.controlByte b := by
  rcases d.byte_cases b with ⟨inBlock, _, _⟩ | ⟨inBlock, _, _⟩ | ⟨_, zero, _⟩ | ⟨_, _, control⟩
  · exact absurd inBlock atControl
  · exact absurd inBlock atControl
  · exact absurd zero nonzero
  · exact control

theorem Decoder.delimiter_events :
    d.delimiter.2 = d.flush.2 ++ [.packetEnd (d.totalLength + d.pending)] ++ d.flush.1.deliver.2 := by
  rw [Decoder.delimiter, Decoder.packetEnd_snd, Decoder.flush_totalLength, List.append_assoc]
  rfl

end

/-- COBSD.BYTE completes with what the byte makes of the decoder, and touches only its own instance. -/
theorem exec_cobsdByte_only (s : State) (b : Byte) :
    ∃ t, exec (.cobsdByte b) s = .next t ∧ (t.cobsdOf s.port).dec = ((s.cobsdOf s.port).dec.byte b).1 ∧
      (t.cobsdOf s.port).out = (s.cobsdOf s.port).out ++ ((s.cobsdOf s.port).dec.byte b).2 ∧ onlyCobsd s t :=
  s.commitCobsd_only ({ s.cobsdOf s.port with dec := ((s.cobsdOf s.port).dec.byte b).1 }, _)

/-- Settles O31: the literal's case is `storeLiteral`. -/
theorem literalIsStoredInTheBlock : Obligations.LiteralIsStoredInTheBlock := by
  intro s b d inBlock nonzero
  obtain ⟨t, completes, dec, out, frame⟩ := exec_cobsdByte_only s b
  rw [d.byte_of_lt b inBlock nonzero] at dec out
  refine ⟨t, completes, ?_, by rw [out, List.append_nil], frame⟩
  rw [dec]
  exact ⟨Memory.read_write_same _ _ _, fun i other => Memory.read_write_other _ _ _ _ other,
    rfl, rfl, rfl, rfl, rfl, rfl, rfl⟩

/-- Settles O33: the length prefix's case is implicit zero, flush and new block, read through their fields. -/
theorem lengthPrefixFlushesAndBeginsABlock : Obligations.LengthPrefixFlushesAndBeginsABlock := by
  intro s b d atControl nonzero z n c blk'
  obtain ⟨t, completes, dec, out, frame⟩ := exec_cobsdByte_only s b
  rw [d.byte_of_not_lt b atControl nonzero, Decoder.controlByte] at dec out
  have pending : d.implicitZero.pending = n := d.implicitZero_pending
  have fitting : d.implicitZero.fitting = c := by rw [d.implicitZero_fitting, pending]
  refine ⟨t, completes, ?_, ?_, frame⟩
  · rw [dec]
    refine ⟨fun i => ?_, fun i => ?_, ?_, ?_, rfl, rfl, rfl, by simp⟩
    · simp only [Decoder.beginBlock_blk, Decoder.flush_blk, d.implicitZero_blk_read, blk', z]
    · simp only [Decoder.beginBlock_pkt, Decoder.flush_pkt, Memory.read_copy, fitting, Decoder.implicitZero_packetIndex,
        Decoder.implicitZero_blockStart, Decoder.implicitZero_pkt, d.implicitZero_blk_read, blk', z]
    · simp only [Decoder.beginBlock_packetIndex, Decoder.flush_packetIndex, fitting, Decoder.implicitZero_packetIndex]
    · simp only [Decoder.beginBlock_totalLength, Decoder.flush_totalLength, pending, Decoder.implicitZero_totalLength]
  · rw [out, Decoder.flush_events, pending, fitting]

/-- Settles O34: the delimiter's case is flush, packet end and reset. -/
theorem delimiterEndsThePacket : Obligations.DelimiterEndsThePacket := by
  intro s d atControl n c total
  obtain ⟨t, completes, dec, out, frame⟩ := exec_cobsdByte_only s 0
  rw [d.byte_zero_of_not_lt atControl] at dec out
  rw [d.delimiter_fst] at dec
  refine ⟨t, completes, ?_, frame⟩
  rw [dec]
  refine ⟨Decoder.atReset_resetCursors _, d.flush_blk, d.flush_cap, fun i => ?_, ?_⟩
  · simp only [Decoder.resetCursors_pkt, Decoder.flush_pkt, Memory.read_copy]
    rfl
  · rw [out, Decoder.delimiter_events, Decoder.flush_events, Decoder.deliver_events, Memory.slice_eq_map,
      d.flush_totalLength, d.flush_packetIndex]
    simp only [Nat.zero_add, List.append_assoc]
    rfl

/-! ## The kinds of events of a byte (R138) -/

/-- A byte puts out BLOCK and PACKET_END notifications, then at most one event more: a packet or an error, and these only
for the byte 00. -/
theorem Decoder.byte_events (d : Decoder) (b : Byte) : ∃ notes last, (d.byte b).2 = notes ++ last ∧
    (∀ ev ∈ notes, (∃ c, ev = .block c) ∨ ∃ t, ev = .packetEnd t) ∧
    (last = [] ∨ b = 0 ∧
      ((∃ p, last = [.packet p]) ∨ last = [.err .unexpectedZero] ∨ ∃ n, last = [.err (.overflow n)])) := by
  have flushed (d : Decoder) : ∀ ev ∈ d.flush.2, (∃ c, ev = .block c) ∨ ∃ t, ev = .packetEnd t := by
    intro ev mem
    rw [d.flush_events] at mem
    split at mem
    · cases mem
    · exact .inl ⟨_, List.mem_singleton.1 mem⟩
  rcases d.byte_cases b with ⟨_, zero, byte⟩ | ⟨_, _, byte⟩ | ⟨_, zero, byte⟩ | ⟨_, _, byte⟩ <;> rw [byte]
  · exact ⟨[], _, rfl, nofun, .inr ⟨zero, .inr (.inl rfl)⟩⟩
  · exact ⟨[], [], rfl, nofun, .inl rfl⟩
  · refine ⟨_, _, d.delimiter_events, ?_, ?_⟩
    · intro ev mem
      rcases List.mem_append.1 mem with mem | mem
      · exact flushed d ev mem
      · exact .inr ⟨_, List.mem_singleton.1 mem⟩
    · rcases d.flush.1.deliver_cases with ⟨_, events⟩ | ⟨_, _, events⟩ | ⟨_, _, events⟩ <;> rw [events]
      · exact .inl rfl
      · exact .inr ⟨zero, .inl ⟨_, rfl⟩⟩
      · exact .inr ⟨zero, .inr (.inr ⟨_, rfl⟩)⟩
  · exact ⟨_, [], (List.append_nil _).symm, flushed d.implicitZero, .inl rfl⟩

/-! ## Under the invariants (R24, R138, R141) -/

section
variable {d : Decoder} (inv : d.Inv)
include inv

theorem Decoder.Inv.blockIndex_le : d.blockIndex ≤ d.blockLength := by
  obtain ⟨cursors, -⟩ := inv
  rcases cursors with ⟨_, _, _⟩ | ⟨_, _, _, _⟩ <;> omega

theorem Decoder.Inv.atControl_iff : d.atControl = true ↔ ¬ d.blockIndex < d.blockLength := by
  have := inv.blockIndex_le
  simp only [Decoder.atControl, beq_iff_eq]
  omega

/-- At a control position at most 254 bytes are pending, the implied zero included. -/
theorem Decoder.Inv.pending_le (atControl : ¬ d.blockIndex < d.blockLength) :
    d.pending ≤ 254 ∧ d.implicitZero.pending ≤ 254 := by
  obtain ⟨cursors, -⟩ := inv
  rw [Decoder.pending_eq, d.implicitZero_pending]
  rcases cursors with ⟨_, _, _⟩ | ⟨_, _, _, _⟩ <;> split <;> omega

/-- After the flush of the delimiter the packet buffer holds the whole packet or is full. -/
theorem Decoder.Inv.flush_packetIndex_eq :
    d.flush.1.packetIndex = min (d.totalLength + d.pending) d.cap := by
  obtain ⟨_, _, index, _⟩ := inv
  rw [d.flush_packetIndex, d.fitting_eq, index]
  omega

end

theorem Decoder.flush_events_le (d : Decoder) (atMost : d.pending ≤ 254) :
    d.flush.2 = [] ∨ ∃ c, c ≤ 254 ∧ d.flush.2 = [.block c] := by
  rw [d.flush_events]
  split
  · exact .inl rfl
  · exact .inr ⟨_, (min_le_left _ _).trans atMost, rfl⟩

/-- Settles O36: the cases of a byte; the counts are bounded by the pending bytes, the last event depends on whether the packet
fitted. -/
theorem cobsdByteEventLists : Obligations.CobsdByteEventLists := by
  intro s b d inv
  obtain ⟨t, completes, -, out, -⟩ := exec_cobsdByte_only s b
  refine ⟨t, _, completes, out, fun lt nonzero => ?_, fun lt zero => ?_, fun eq nonzero => ?_, fun eq zero => ?_⟩
  · rw [d.byte_of_lt b lt nonzero]
  · rw [zero, d.byte_zero_of_lt lt]
  · rw [d.byte_of_not_lt b eq.not_lt nonzero]
    exact d.implicitZero.flush_events_le (inv.pending_le eq.not_lt).2
  · rw [zero, d.byte_zero_of_not_lt eq.not_lt]
    refine ⟨_, _, _, d.delimiter_events, d.flush_events_le (inv.pending_le eq.not_lt).1, ?_⟩
    rw [Decoder.deliver_events, d.flush_totalLength, inv.flush_packetIndex_eq]
    refine ⟨fun empty => if_pos empty, fun some fits => ?_, fun tooLong => ?_⟩
    · rw [if_neg some.ne', if_pos (min_eq_left fits).symm]
      exact ⟨_, by rw [Memory.length_slice, min_eq_left fits], rfl⟩
    · rw [if_neg (by omega), if_neg (by omega)]

/-- Settles O37: rows 2 and 3 are `beginBlock`, rows 4 and 5 `storeLiteral`. -/
theorem cobsdControlTransitions : Obligations.CobsdControlTransitions := by
  intro s b d inv
  obtain ⟨t, completes, dec, -⟩ := exec_cobsdByte_only s b
  refine ⟨t, completes, ?_⟩
  rw [dec]
  have nonzero_of (k : Nat) (positive : 0 < k) (value : k ≤ b.toNat) : b ≠ 0 := by
    rintro rfl
    exact absurd value (by simp; omega)
  refine ⟨fun zero => ?_, fun control one => ?_, fun control long => ?_, fun inBlock more nonzero => ?_,
    fun inBlock last nonzero => ?_⟩
  · rw [zero]
    have reset := d.atReset_byte_zero
    obtain ⟨_, index, length, _⟩ := id reset
    have control : (d.byte 0).1.atControl = true := by rw [Decoder.atControl, index, length]; rfl
    exact ⟨control, length, reset⟩
  · have nonzero := nonzero_of 1 (by decide) (by simp [one])
    rw [d.byte_of_not_lt b ((inv.atControl_iff).1 control) nonzero, one]
    exact ⟨rfl, rfl⟩
  · have nonzero := nonzero_of 2 (by decide) long
    rw [d.byte_of_not_lt b ((inv.atControl_iff).1 control) nonzero]
    exact ⟨(Decoder.inBlock_iff _).2 long, rfl, rfl⟩
  · have lt := d.inBlock_iff.1 inBlock
    rw [d.byte_of_lt b lt nonzero]
    simp only [Decoder.remaining, Decoder.inBlock_iff, Decoder.storeLiteral_blockIndex, Decoder.storeLiteral_blockLength,
      true_and] at more ⊢
    omega
  · have lt := d.inBlock_iff.1 inBlock
    rw [d.byte_of_lt b lt nonzero]
    simp only [Decoder.remaining, Decoder.atControl, Decoder.storeLiteral_blockIndex, Decoder.storeLiteral_blockLength,
      beq_iff_eq, and_true] at last ⊢
    omega

end Sys2Proof.Machine

/-! PROOF. A framed packet through a COBS decoder (41_cobs_decoder.md R139). The decoder's state at a control position is described
by two byte lists: what has been flushed (`Received`) and what the block before holds (`Holds`). A block of the wire flushes the
held bytes and replaces them, the delimiter flushes them and reports. -/

namespace Sys2Proof.Machine

theorem Memory.slice_add (m : Memory) (a n k : Nat) : m.slice a (n + k) = m.slice a n ++ m.slice (a + n) k := by
  induction n generalizing a with
  | zero => simp
  | succ n ih => rw [Nat.succ_add, Memory.slice_succ, Memory.slice_succ, ih, Nat.add_right_comm, Nat.add_assoc]; rfl

/-- A slice of a copied range is the slice of the source. -/
theorem Memory.slice_copy (src : Memory) (a : Nat) (dst : Memory) (j n : Nat) :
    (Memory.copy src a dst j n).slice j n = src.slice a n := by
  rw [Memory.slice_eq_map, Memory.slice_eq_map]
  refine List.map_congr_left fun i mem => ?_
  have lt := List.mem_range.1 mem
  rw [Memory.read_copy, if_pos (by omega), Nat.add_sub_cancel_left]

/-- A slice below a copied range is as before. -/
theorem Memory.slice_copy_below (src : Memory) (a : Nat) (dst : Memory) (j n : Nat) :
    (Memory.copy src a dst j n).slice 0 j = dst.slice 0 j :=
  Memory.slice_congr _ _ _ _ fun i _ lt => by rw [Memory.read_copy, if_neg (by omega)]

/-- The start of a slice. -/
theorem Memory.slice_take (m : Memory) (a n k : Nat) : (m.slice a n).take k = m.slice a (min k n) := by
  rw [Memory.slice_eq_map, Memory.slice_eq_map, ← List.map_take, List.take_range]

/-- A slice grown by the byte written behind it. -/
theorem Memory.slice_write_end (m : Memory) (a n : Nat) (v : Byte) :
    (m.write (a + n) v).slice a (n + 1) = m.slice a n ++ [v] := by
  rw [Memory.slice_add, Memory.slice_succ, Memory.read_write_same, Memory.slice_zero]
  congr 1
  exact Memory.slice_congr _ _ _ _ fun i _ lt => Memory.read_write_other _ _ _ _ lt.ne

/-! ## Flushed and held bytes -/

/-- The bytes `done` of the packet have been flushed: all are counted, and those that fit stand in `pkt` (R135). -/
structure Decoder.Received (d : Decoder) (done : List Byte) : Prop where
  total : d.totalLength = done.length
  index : d.packetIndex = min done.length d.cap
  stored : d.pkt.slice 0 d.packetIndex = done.take d.cap

/-- The bytes `cur` of the block are pending (R25). -/
structure Decoder.Holds (d : Decoder) (cur : List Byte) : Prop where
  index : d.blockIndex = d.blockStart + cur.length
  stored : d.blk.slice d.blockStart cur.length = cur

section
variable {d : Decoder} {done cur : List Byte}

theorem Decoder.Holds.pending_eq (holds : d.Holds cur) : d.pending = cur.length := by
  rw [Decoder.pending, holds.index, Nat.add_sub_cancel_left]

/-- R135: the held bytes join the flushed ones. -/
theorem Decoder.Received.flush (received : d.Received done) (holds : d.Holds cur) :
    d.flush.1.Received (done ++ cur) := by
  have fitting : d.fitting = min (d.cap - done.length) cur.length := by
    rw [d.fitting_eq, holds.pending_eq, received.index]; omega
  refine ⟨?_, ?_, ?_⟩
  · rw [d.flush_totalLength, holds.pending_eq, received.total, List.length_append]
  · rw [d.flush_packetIndex, d.flush_cap, fitting, received.index, List.length_append]; omega
  · rw [d.flush_packetIndex, d.flush_pkt, d.flush_cap, Memory.slice_add, Memory.slice_copy_below, Nat.zero_add,
      Memory.slice_copy, received.stored, List.take_append, fitting, ← Memory.slice_take, holds.stored]

/-- The BLOCK event of the flush, if any byte was held. -/
theorem Decoder.Received.flush_events (received : d.Received done) (holds : d.Holds cur) :
    d.flush.2 = Wire.blockEvents d.cap done.length [cur] := by
  have fitting : d.fitting = min cur.length (d.cap - done.length) := by
    rw [d.fitting_eq, holds.pending_eq, received.index]; omega
  rw [Decoder.flush_events, holds.pending_eq, fitting]
  rfl

/-- What a block stands for when another follows it: its bytes and, unless it is full, a zero (R79, R80). -/
def Wire.followed (p : List Byte) : List Byte := if p.length = Config.maxPayload then p else p ++ [0x00#8]

/-- R134: the implied zero joins the held bytes, unless the block before was full. -/
theorem Decoder.Holds.implicitZero (holds : d.Holds cur) :
    d.implicitZero.Holds (if d.blockLength = 255 then cur else cur ++ [0x00#8]) := by
  rcases d.implicitZero_cases with ⟨full, same⟩ | ⟨short, zero⟩
  · rwa [if_pos full, same]
  · rw [if_neg short, zero]
    refine ⟨by simp only [holds.index, List.length_append, List.length_singleton, Nat.add_assoc], ?_⟩
    rw [List.length_append, List.length_singleton, holds.index, Memory.slice_write_end, holds.stored]
    rfl

theorem Decoder.Received.implicitZero (received : d.Received done) : d.implicitZero.Received done := by
  obtain ⟨total, index, stored⟩ := received
  exact ⟨by simpa, by simpa, by simpa⟩

/-- R132: literals join the held bytes, silently. -/
theorem Decoder.feed_literals (p : List Byte) (received : d.Received done) (holds : d.Holds cur)
    (room : d.blockIndex + p.length ≤ d.blockLength) (nonzero : ∀ b ∈ p, b ≠ 0) :
    (d.feed p).2 = [] ∧ (d.feed p).1.Received done ∧ (d.feed p).1.Holds (cur ++ p) ∧
    (d.feed p).1.blockStart = d.blockStart ∧ (d.feed p).1.blockLength = d.blockLength ∧ (d.feed p).1.cap = d.cap := by
  induction p generalizing d cur with
  | nil => exact ⟨rfl, received, by rwa [List.append_nil], rfl, rfl, rfl⟩
  | cons b p ih =>
    rw [List.length_cons] at room
    have byte := d.byte_of_lt b (by omega) (nonzero b List.mem_cons_self)
    have stored : (d.storeLiteral b).Holds (cur ++ [b]) := by
      refine ⟨by simp only [Decoder.storeLiteral_blockIndex, Decoder.storeLiteral_blockStart, holds.index,
        List.length_append, List.length_singleton, Nat.add_assoc], ?_⟩
      rw [List.length_append, List.length_singleton, Decoder.storeLiteral_blk, Decoder.storeLiteral_blockStart,
        holds.index, Memory.slice_write_end, holds.stored]
    obtain ⟨events, received', holds', start, length, cap⟩ :=
      ih (d := d.storeLiteral b) ⟨received.total, received.index, received.stored⟩ stored
        (by rw [Decoder.storeLiteral_blockIndex, Decoder.storeLiteral_blockLength]; omega)
        fun c mem => nonzero c (List.mem_cons_of_mem _ mem)
    rw [Decoder.feed_cons, byte]
    rw [List.append_assoc] at holds'
    exact ⟨events, received', holds', start, length, cap⟩

end

/-! ## Blocks and the delimiter -/

theorem Wire.blockOk_iff (p : List Byte) : Wire.blockOk p = true ↔ p.length ≤ 254 ∧ ∀ b ∈ p, b ≠ 0 := by
  simp only [Wire.blockOk, Bool.and_eq_true, decide_eq_true_eq, List.all_eq_true, bne_iff_ne]
  rfl

/-- A legal block's length prefix is no delimiter, and counts itself (R78). -/
theorem Wire.lengthByte_toNat (n : Nat) (small : n ≤ 255) : (lengthByte n).toNat = n := by
  rw [lengthByte, BitVec.toNat_ofNat]; omega

theorem Wire.lengthByte_ne_zero (n : Nat) (positive : 1 ≤ n) (small : n ≤ 255) : lengthByte n ≠ 0 := by
  intro zero
  have value := Wire.lengthByte_toNat n small
  rw [zero] at value
  exact absurd value.symm (by simpa using Nat.one_le_iff_ne_zero.1 positive)

theorem Wire.blockEvents_cons (cap total : Nat) (p : List Byte) (rest : List (List Byte)) :
    Wire.blockEvents cap total (p :: rest) =
      Wire.blockEvents cap total [p] ++ Wire.blockEvents cap (total + p.length) rest := by
  simp only [Wire.blockEvents]
  split
  next empty => rw [empty, Nat.add_zero, List.nil_append]
  next => rfl

/-- The decoder stands at a control position after a block whose bytes `cur` it holds. -/
structure Decoder.AfterBlock (d : Decoder) (done cur : List Byte) : Prop where
  received : d.Received done
  holds : d.Holds cur
  control : d.blockIndex = d.blockLength
  length : d.blockLength = cur.length + 1

section
variable {d : Decoder} {done cur : List Byte}

/-- One more block: the held bytes, with the zero if it is implied, are flushed, and the new block's bytes are held (R131). -/
theorem Decoder.feed_block (received : d.Received done) (holds : d.Holds cur) (control : d.blockIndex = d.blockLength)
    (piece : List Byte) (pieceIs : (if d.blockLength = 255 then cur else cur ++ [0x00#8]) = piece)
    (p : List Byte) (legal : Wire.blockOk p = true) :
    (d.feed (Wire.block p)).2 = Wire.blockEvents d.cap done.length [piece] ∧
    (d.feed (Wire.block p)).1.AfterBlock (done ++ piece) p ∧ (d.feed (Wire.block p)).1.cap = d.cap := by
  obtain ⟨short, nonzero⟩ := (Wire.blockOk_iff p).1 legal
  have prefixIs := Wire.lengthByte_toNat (p.length + 1) (by omega)
  have byte := d.byte_of_not_lt (lengthByte (p.length + 1)) control.not_lt
    (Wire.lengthByte_ne_zero _ (by omega) (by omega))
  have held := holds.implicitZero
  rw [pieceIs] at held
  obtain ⟨total, index, stored⟩ := received.implicitZero.flush held
  have events := received.implicitZero.flush_events held
  rw [d.implicitZero_cap] at events
  obtain ⟨silent, received', holds', start, length, cap⟩ :=
    Decoder.feed_literals (d := d.implicitZero.flush.1.beginBlock (lengthByte (p.length + 1))) (cur := []) p
      ⟨total, index, stored⟩ ⟨rfl, rfl⟩
      (by rw [Decoder.beginBlock_blockIndex, Decoder.beginBlock_blockLength, prefixIs, Nat.add_comm]) nonzero
  rw [Wire.block, Decoder.feed_cons, byte, Decoder.controlByte, silent, List.append_nil]
  rw [Decoder.beginBlock_blockStart] at start
  rw [Decoder.beginBlock_blockLength, prefixIs] at length
  refine ⟨events, ⟨received', holds', ?_, length⟩, ?_⟩
  · rw [holds'.index, start, length, List.nil_append, Nat.add_comm]
  · rw [cap, Decoder.beginBlock_cap, Decoder.flush_cap, Decoder.implicitZero_cap]

/-- The delimiter: the held bytes are flushed and the packet is reported (R131, R137). -/
theorem Decoder.feed_delimiter (received : d.Received done) (holds : d.Holds cur) (control : d.blockIndex = d.blockLength) :
    (d.feed [0x00#8]).2 = Wire.blockEvents d.cap done.length [cur] ++ Wire.endEvents d.cap (done ++ cur) ∧
    (d.feed [0x00#8]).1.atReset := by
  obtain ⟨total, index, stored⟩ := received.flush holds
  have single : d.feed [0x00#8] = d.delimiter := by
    rw [Decoder.feed_cons, Decoder.feed_nil, List.append_nil]
    exact d.byte_zero_of_not_lt control.not_lt
  rw [single]
  refine ⟨?_, by rw [d.delimiter_fst]; exact Decoder.atReset_resetCursors _⟩
  rw [Decoder.delimiter_events, received.flush_events holds, Decoder.deliver_events, ← d.flush_totalLength, total, stored,
    index, d.flush_cap, List.append_assoc, Wire.endEvents, List.singleton_append]
  congr 2
  by_cases fits : (done ++ cur).length ≤ d.cap
  · rw [min_eq_left fits, if_pos rfl, if_pos fits, List.take_of_length_le fits]
  · rw [if_neg (show ¬ (done ++ cur).length = min (done ++ cur).length d.cap by omega), if_neg fits]

/-- The rest of a packet, from after a block on. -/
theorem Decoder.AfterBlock.feed_rest (after : d.AfterBlock done cur) (rest : List (List Byte))
    (legal : ∀ p ∈ rest, Wire.blockOk p = true) :
    (d.feed (Wire.body rest ++ [0x00#8])).2 = Wire.blockEvents d.cap done.length (Wire.pieces (cur :: rest)) ++
      Wire.endEvents d.cap (done ++ Wire.packet (cur :: rest)) ∧
    (d.feed (Wire.body rest ++ [0x00#8])).1.atReset := by
  induction rest generalizing d done cur with
  | nil =>
    have := Decoder.feed_delimiter after.received after.holds after.control
    simpa [Wire.body, Wire.packet, Wire.pieces] using this
  | cons p rest ih =>
    have piece : (if d.blockLength = 255 then cur else cur ++ [0x00#8]) = Wire.followed cur := by
      rw [after.length]; exact if_congr (by simp [Config.maxPayload]) rfl rfl
    obtain ⟨events, next, cap⟩ :=
      Decoder.feed_block after.received after.holds after.control _ piece p (legal p List.mem_cons_self)
    obtain ⟨restEvents, reset⟩ := ih next fun q mem => legal q (List.mem_cons_of_mem _ mem)
    have pieces : Wire.pieces (cur :: p :: rest) = Wire.followed cur :: Wire.pieces (p :: rest) := rfl
    rw [Wire.body, List.append_assoc, Decoder.feed_append]
    refine ⟨?_, reset⟩
    have packet : Wire.packet (cur :: p :: rest) = Wire.followed cur ++ Wire.packet (p :: rest) := rfl
    rw [events, restEvents, cap, pieces, packet, Wire.blockEvents_cons _ _ _ (Wire.pieces (p :: rest)),
      List.length_append, List.append_assoc, List.append_assoc]

end

/-- R139: a framed packet from the reset cursors, whatever the buffers hold. -/
theorem Decoder.feed_frame (d : Decoder) (reset : d.atReset) (blocks : List (List Byte))
    (legal : ∀ p ∈ blocks, Wire.blockOk p = true) :
    (d.feed (Wire.body blocks ++ [0x00#8])).2 =
      Wire.blockEvents d.cap 0 (Wire.pieces blocks) ++ Wire.endEvents d.cap (Wire.packet blocks) ∧
    (d.feed (Wire.body blocks ++ [0x00#8])).1.atReset := by
  obtain ⟨start, index, length, packetIndex, total⟩ := reset
  have received : d.Received [] := ⟨total, by rw [packetIndex]; simp, by rw [packetIndex]; simp⟩
  have holds : d.Holds [] := ⟨by rw [index, start]; rfl, rfl⟩
  have control : d.blockIndex = d.blockLength := by rw [index, length]
  cases blocks with
  | nil => exact Decoder.feed_delimiter received holds control
  | cons p rest =>
    obtain ⟨silent, next, cap⟩ :=
      Decoder.feed_block received holds control [] (by rw [if_pos length]) p (legal p List.mem_cons_self)
    obtain ⟨events, reset⟩ := next.feed_rest rest fun q mem => legal q (List.mem_cons_of_mem _ mem)
    rw [Wire.body, List.append_assoc, Decoder.feed_append]
    refine ⟨?_, reset⟩
    rw [silent, events, cap]
    rfl

/-- Settles O38. -/
theorem decoderReadsEveryFramedPacket : Obligations.DecoderReadsEveryFramedPacket := by
  intro s blocks reset legal
  obtain ⟨t, completes, unit, frame⟩ := execAll_cobsd s ((Wire.body blocks ++ [0x00#8]).map Instr.cobsdByte) _
    (by simp only [List.forall_mem_map]; exact fun _ _ => rfl) (UnitView.run_cobsdByte _ _)
  obtain ⟨events, reset'⟩ := (s.cobsdOf s.port).dec.feed_frame reset blocks legal
  refine ⟨t, completes, by rw [unit]; exact reset', ?_, frame⟩
  rw [unit, List.append_assoc, ← events]

end Sys2Proof.Machine

/-! PROOF. The COBS encoder (42_cobs_encoder.md R160 to R165). The encoder's commands are read through the payload bytes of the
pending block; the closed form of R165 follows by adding one byte at a time to its first run. -/

namespace Sys2Proof.Machine

/-! ## The pending block's payload (R26) -/

/-- The payload bytes of the pending block, none if no block is pending. -/
def Encoder.payload (e : Encoder) : List Byte := e.buf.slice 1 (e.index - 1)

section
variable (e : Encoder) (b : Byte)

theorem Encoder.payload_length : e.payload.length = e.index - 1 := Memory.length_slice _ _ _

theorem Encoder.startBlock_index_ne_zero : e.startBlock.index ≠ 0 := by
  rw [Encoder.startBlock_index]; split <;> omega

theorem Encoder.startBlock_index_eq : e.startBlock.index = e.payload.length + 1 := by
  rw [Encoder.startBlock_index, Encoder.payload_length]; split <;> omega

@[simp] theorem Encoder.startBlock_payload : e.startBlock.payload = e.payload := by
  rw [Encoder.payload, Encoder.payload, Encoder.startBlock_buf, Encoder.startBlock_index_eq, Encoder.payload_length,
    Nat.add_sub_cancel]

@[simp] theorem Encoder.startBlock_startBlock : e.startBlock.startBlock = e.startBlock := by
  have started : ¬ e.startBlock.noPending = true := fun none => e.startBlock_index_ne_zero ((Encoder.noPending_iff _).1 none)
  rw [Encoder.startBlock, if_neg started]

/-- An encoder without a pending block takes a byte as one with an empty block does (R161). -/
theorem Encoder.data_startBlock : e.startBlock.data b = e.data b := by
  rw [Encoder.data, Encoder.data, Encoder.startBlock_startBlock]

theorem Encoder.payload_of_index_one (started : e.index = 1) : e.payload = [] := by
  rw [Encoder.payload, started]; rfl

theorem Encoder.append_payload (pending : e.index ≠ 0) : (e.append b).payload = e.payload ++ [b] := by
  obtain ⟨k, index⟩ : ∃ k, e.index = 1 + k := ⟨e.index - 1, by omega⟩
  have lengths : e.index + 1 - 1 = k + 1 ∧ e.index - 1 = k := by omega
  rw [Encoder.payload, Encoder.payload, Encoder.append_buf, Encoder.append_index, lengths.1, lengths.2, index,
    Memory.slice_write_end]

/-- The chunk of a pending block is the block on the wire (R78, R160). -/
theorem Encoder.blockChunk_eq_block (pending : e.index ≠ 0) : e.blockChunk = .chunk (Wire.block e.payload) := by
  rw [e.blockChunk_eq pending, Wire.block, Encoder.payload_length, Nat.sub_add_cancel (Nat.one_le_iff_ne_zero.2 pending)]
  rfl

/-- R161 by the payload: a zero or the 254th byte closes the block, any other byte joins it. A block is pending afterwards. -/
theorem Encoder.data_payload_cases :
    (b = 0 ∧ (e.data b).2 = [.chunk (Wire.block e.payload)] ∧ (e.data b).1.index = 1) ∨
    (b ≠ 0 ∧ e.payload.length = 253 ∧ (e.data b).2 = [.chunk (Wire.block (e.payload ++ [b]))] ∧
      (e.data b).1.index = 1) ∨
    (b ≠ 0 ∧ e.payload.length ≠ 253 ∧ (e.data b).2 = [] ∧ (e.data b).1.payload = e.payload ++ [b] ∧
      (e.data b).1.index = e.payload.length + 2) := by
  have pending := e.startBlock_index_ne_zero
  have index := e.startBlock_index_eq
  rcases e.data_cases b with ⟨zero, data⟩ | ⟨nonzero, full, data⟩ | ⟨nonzero, room, data⟩ <;> rw [data]
  · refine .inl ⟨zero, ?_, rfl⟩
    rw [Encoder.flushBlock_events, Encoder.blockChunk_eq_block _ pending, Encoder.startBlock_payload]
  · refine .inr (.inl ⟨nonzero, by omega, ?_, rfl⟩)
    rw [Encoder.flushBlock_events, Encoder.blockChunk_eq_block _ (by simp), Encoder.append_payload _ _ pending,
      Encoder.startBlock_payload]
  · refine .inr (.inr ⟨nonzero, by omega, rfl, ?_, ?_⟩)
    · rw [Encoder.append_payload _ _ pending, Encoder.startBlock_payload]
    · rw [Encoder.append_index, index]

theorem Encoder.delimiter_events (pending : e.index ≠ 0) :
    e.delimiter.2 = [.chunk (Wire.block e.payload), .chunk [0x00#8]] := by
  rcases e.delimiter_cases with ⟨none, _⟩ | ⟨_, closed⟩
  · exact absurd none pending
  · rw [closed, e.blockChunk_eq_block pending]

theorem Encoder.delimiter_events_of_none (none : e.index = 0) : e.delimiter.2 = [.chunk [0x00#8]] := by
  rcases e.delimiter_cases with ⟨_, alone⟩ | ⟨pending, _⟩
  · rw [alone]
  · exact absurd none pending

end

/-- COBSE.DATA completes with what the byte makes of the encoder, and touches only its own instance. -/
theorem exec_cobseData_only (s : State) (b : Byte) :
    ∃ t, exec (.cobseData b) s = .next t ∧ (t.cobseOf s.port).enc = ((s.cobseOf s.port).enc.data b).1 ∧
      (t.cobseOf s.port).out = (s.cobseOf s.port).out ++ ((s.cobseOf s.port).enc.data b).2 ∧ onlyCobse s t :=
  s.commitCobse_only ({ s.cobseOf s.port with enc := ((s.cobseOf s.port).enc.data b).1 }, _)

/-- Settles O40: the three cases of `Encoder.data_cases`, with the buffer byte by byte. -/
theorem cobseDataStoresOrFlushes : Obligations.CobseDataStoresOrFlushes := by
  refine ⟨decode_cobseData, fun s b => ?_⟩
  intro e i payload
  obtain ⟨t, completes, enc, out, frame⟩ := exec_cobseData_only s b
  refine ⟨t, completes, ?_, frame⟩
  intro e' before after
  have enc' : e' = (e.data b).1 := enc
  have out' : after = before ++ (e.data b).2 := out
  have index : e.startBlock.index = i := e.startBlock_index
  have payloadIs : e.startBlock.payload = payload := by
    rw [Encoder.payload, Memory.slice_eq_map, Encoder.startBlock_buf, index]
    simp only [Nat.add_comm 1, payload]
  have pending := e.startBlock_index_ne_zero
  rw [enc', out']
  rcases e.data_cases b with ⟨zero, data⟩ | ⟨nonzero, full, data⟩ | ⟨nonzero, room, data⟩ <;> rw [data]
  · rw [if_pos zero]
    refine ⟨rfl, ?_, fun j other => ?_, ?_⟩
    · rw [Encoder.flushBlock_buf, Memory.read_write_same, index]; rfl
    · rw [Encoder.flushBlock_buf, Memory.read_write_other _ _ _ _ other, Encoder.startBlock_buf]
    · rw [Encoder.flushBlock_events, Encoder.blockChunk_eq_map _ pending, Encoder.startBlock_buf, index]
  · rw [if_neg nonzero, if_pos (index ▸ full)]
    refine ⟨rfl, ?_, ?_, fun j notPrefix notLast => ?_, ?_⟩
    · rw [Encoder.flushBlock_buf, Memory.read_write_same, Encoder.append_index, full]; rfl
    · rw [Encoder.flushBlock_buf, Memory.read_write_other _ _ _ _ (by decide), Encoder.append_buf, full,
        Memory.read_write_same]
    · rw [Encoder.flushBlock_buf, Memory.read_write_other _ _ _ _ notPrefix, Encoder.append_buf, full,
        Memory.read_write_other _ _ _ _ notLast, Encoder.startBlock_buf]
    · have length := Encoder.payload_length (e.startBlock.append b)
      rw [Encoder.append_index, full] at length
      rw [Encoder.flushBlock_events, Encoder.blockChunk_eq_block _ (by simp), Wire.block, length,
        Encoder.append_payload _ _ pending, payloadIs]
      rfl
  · rw [if_neg nonzero, if_neg (index ▸ room)]
    refine ⟨?_, ?_, fun j other => ?_, List.append_nil _⟩
    · rw [Encoder.append_index, index]
    · rw [Encoder.append_buf, index, Memory.read_write_same]
    · rw [Encoder.append_buf, index, Memory.read_write_other _ _ _ _ other, Encoder.startBlock_buf]

/-! ## Zeros in the output (R164) -/

theorem wireBytes_append (xs ys : List Event) : wireBytes (xs ++ ys) = wireBytes xs ++ wireBytes ys := by
  induction xs with
  | nil => rfl
  | cons x xs ih => rw [List.cons_append, wireBytes, wireBytes, ih, List.append_assoc]

@[simp] theorem wireBytes_chunk (bytes : List Byte) : wireBytes [.chunk bytes] = bytes := List.append_nil bytes

theorem Wire.zero_notMem_block (p : List Byte) (legal : Wire.blockOk p = true) : 0x00#8 ∉ Wire.block p := by
  obtain ⟨short, nonzero⟩ := (Wire.blockOk_iff p).1 legal
  rw [Wire.block, List.mem_cons, not_or]
  exact ⟨(Wire.lengthByte_ne_zero _ (by omega) (by omega)).symm, fun mem => nonzero _ mem rfl⟩

/-- Under the encoder's invariant the pending payload is short and has no zero. -/
theorem Encoder.Inv.payload_ok (e : Encoder) (inv : e.Inv) : e.payload.length ≤ 253 ∧ ∀ b ∈ e.payload, b ≠ 0 := by
  obtain ⟨index, nonzero, -⟩ := inv
  refine ⟨by rw [Encoder.payload_length]; omega, fun b mem => ?_⟩
  rw [Encoder.payload, Memory.slice_eq_map] at mem
  obtain ⟨k, inside, rfl⟩ := List.mem_map.1 mem
  exact nonzero _ (by omega) (by have := List.mem_range.1 inside; omega)

/-- Settles O42: every chunk of a block is a legal block, which has no zero. -/
theorem encoderEmitsZerosOnlyAsDelimiters : Obligations.EncoderEmitsZerosOnlyAsDelimiters := by
  intro s inv
  obtain ⟨short, nonzero⟩ := inv.payload_ok
  have legal := (Wire.blockOk_iff _).2 ⟨short.trans (by decide), nonzero⟩
  refine ⟨fun b => ?_, ?_⟩
  · obtain ⟨t, completes, -, out, -⟩ := exec_cobseData_only s b
    refine ⟨t, _, completes, out, ?_⟩
    rcases (s.cobseOf s.port).enc.data_payload_cases b with ⟨_, events, _⟩ | ⟨nz, full, events, _⟩ | ⟨_, _, events, _⟩
    · rw [events, wireBytes_chunk]
      exact Wire.zero_notMem_block _ legal
    · rw [events, wireBytes_chunk]
      refine Wire.zero_notMem_block _ ((Wire.blockOk_iff _).2 ⟨by simp [full], fun c mem => ?_⟩)
      rcases List.mem_append.1 mem with mem | mem
      · exact nonzero c mem
      · rwa [List.mem_singleton.1 mem]
    · rw [events]; exact List.not_mem_nil
  · obtain ⟨t, completes, -, out, -⟩ :=
      s.commitCobse_only ({ s.cobseOf s.port with enc := (s.cobseOf s.port).enc.delimiter.1 },
        (s.cobseOf s.port).enc.delimiter.2)
    rcases eq_or_ne (s.cobseOf s.port).enc.index 0 with none | pending
    · refine ⟨t, _, [], completes, out, ?_, List.not_mem_nil⟩
      rw [Encoder.delimiter_events_of_none _ none, wireBytes_chunk]; rfl
    · refine ⟨t, _, _, completes, out, ?_, Wire.zero_notMem_block _ legal⟩
      rw [Encoder.delimiter_events _ pending]; rfl

/-! ## Runs and blocks (R165) -/

/-- Non-zero bytes put in front join the first run. -/
theorem Wire.runs_append (p s : List Byte) (nonzero : ∀ b ∈ p, b ≠ 0) :
    ∃ r more, Wire.runs s = r :: more ∧ Wire.runs (p ++ s) = (p ++ r) :: more := by
  induction p with
  | nil =>
    cases s with
    | nil => exact ⟨[], [], rfl, rfl⟩
    | cons b s =>
      rw [List.nil_append, Wire.runs]
      split
      · exact ⟨_, _, rfl, rfl⟩
      · split <;> exact ⟨_, _, rfl, rfl⟩
  | cons b p ih =>
    obtain ⟨r, more, runs, joined⟩ := ih fun c mem => nonzero c (List.mem_cons_of_mem _ mem)
    refine ⟨r, more, runs, ?_⟩
    rw [List.cons_append, Wire.runs, if_neg (nonzero b List.mem_cons_self), joined]
    rfl

theorem Wire.runs_cons (s : List Byte) : ∃ r more, Wire.runs s = r :: more := by
  obtain ⟨r, more, runs, -⟩ := Wire.runs_append [] s nofun
  exact ⟨r, more, runs⟩

/-- A zero ends a run. -/
theorem Wire.runs_append_zero (p s : List Byte) (nonzero : ∀ b ∈ p, b ≠ 0) :
    Wire.runs (p ++ 0 :: s) = p :: Wire.runs s := by
  obtain ⟨r, more, runs, joined⟩ := Wire.runs_append p (0 :: s) nonzero
  rw [Wire.runs, if_pos rfl] at runs
  obtain ⟨rfl, rfl⟩ := List.cons.inj runs
  rw [joined, List.append_nil]

theorem Wire.runs_of_nonzero (p : List Byte) (nonzero : ∀ b ∈ p, b ≠ 0) : Wire.runs p = [p] := by
  obtain ⟨r, more, runs, joined⟩ := Wire.runs_append p [] nonzero
  obtain ⟨rfl, rfl⟩ := List.cons.inj runs
  rwa [List.append_nil] at joined

/-- A short run is one block. -/
theorem Wire.allBlocks_cons_of_short (r : List Byte) (rest : List (List Byte)) (short : r.length < 254) :
    Wire.allBlocks (r :: rest) = r :: Wire.allBlocks rest := by
  rw [Wire.allBlocks, show r.length / Config.maxPayload = 0 from Nat.div_eq_of_lt short]
  rfl

/-- The first 254 bytes of a run are a block, and what is left is cut as a run of its own. -/
theorem Wire.allBlocks_cons_of_full (p r : List Byte) (rest : List (List Byte)) (full : p.length = 254) :
    Wire.allBlocks ((p ++ r) :: rest) = p :: Wire.allBlocks (r :: rest) := by
  have count : (p ++ r).length / Config.maxPayload = r.length / Config.maxPayload + 1 := by
    rw [List.length_append, full]
    exact Nat.add_div_left _ (by decide)
  have block : p.length = Config.maxPayload := full
  rw [Wire.allBlocks, Wire.allBlocks, count, Wire.runBlocks, List.take_left' block, List.drop_left' block, List.cons_append]

/-- What an encoder with a pending block emits for more bytes and the delimiter: the closed form of the payload already in the
block and these bytes. -/
theorem Encoder.wireBytes_feed (s : List Byte) (e : Encoder) (pending : e.index ≠ 0) (short : e.payload.length ≤ 253)
    (nonzero : ∀ b ∈ e.payload, b ≠ 0) :
    wireBytes ((e.feed s).2 ++ (e.feed s).1.delimiter.2) =
      Wire.body (Wire.allBlocks (Wire.runs (e.payload ++ s))) ++ [0x00#8] := by
  induction s generalizing e with
  | nil =>
    rw [Encoder.feed_nil, List.nil_append, e.delimiter_events pending, List.append_nil, Wire.runs_of_nonzero _ nonzero,
      Wire.allBlocks_cons_of_short _ _ (by omega)]
    simp only [wireBytes, Event.chunkPart, Wire.allBlocks, Wire.body, List.append_nil]
  | cons b s ih =>
    have joined : ∀ c ∈ e.payload ++ [b], b ≠ 0 → c ≠ 0 := fun c mem nz => by
      rcases List.mem_append.1 mem with mem | mem
      · exact nonzero c mem
      · rwa [List.mem_singleton.1 mem]
    rw [Encoder.feed_cons, List.append_assoc, wireBytes_append]
    rcases e.data_payload_cases b with ⟨zero, events, index⟩ | ⟨nz, full, events, index⟩ |
      ⟨nz, room, events, payload, index⟩
    · have empty := Encoder.payload_of_index_one _ index
      rw [ih _ (by omega) (by simp [empty]) (by simp [empty]), events, empty, zero, Wire.runs_append_zero _ _ nonzero,
        Wire.allBlocks_cons_of_short _ _ (by omega), wireBytes_chunk, List.nil_append, Wire.body, List.append_assoc]
    · have empty := Encoder.payload_of_index_one _ index
      obtain ⟨r, more, runs, runs'⟩ := Wire.runs_append (e.payload ++ [b]) s fun c mem => joined c mem nz
      rw [List.append_assoc, List.singleton_append] at runs'
      rw [ih _ (by omega) (by simp [empty]) (by simp [empty]), events, empty, wireBytes_chunk, List.nil_append, runs, runs',
        Wire.allBlocks_cons_of_full _ _ _ (by simp [full]), Wire.body, List.append_assoc]
    · rw [ih _ (by omega) (by rw [payload, List.length_append, List.length_singleton]; omega)
        (by rw [payload]; exact fun c mem => joined c mem nz), events, payload, List.append_assoc]
      rfl

/-- R165: from the reset state, whatever the buffer holds, payload and delimiter give the closed form. -/
theorem Encoder.wireBytes_frame (e : Encoder) (reset : e.index = 0) (s : List Byte) :
    wireBytes ((e.feed s).2 ++ (e.feed s).1.delimiter.2) = Wire.frame s := by
  cases s with
  | nil => rw [Encoder.feed_nil, List.nil_append, e.delimiter_events_of_none reset, wireBytes_chunk, Wire.frame, if_pos rfl]
  | cons b s =>
    have empty : e.startBlock.payload = [] := by rw [e.startBlock_payload, Encoder.payload, reset]; rfl
    have started : e.feed (b :: s) = e.startBlock.feed (b :: s) := by
      rw [Encoder.feed_cons, Encoder.feed_cons, Encoder.data_startBlock]
    rw [started, Encoder.wireBytes_feed _ _ e.startBlock_index_ne_zero (by simp [empty]) (by simp [empty]), empty,
      List.nil_append, Wire.frame, if_neg (List.cons_ne_nil _ _)]

/-- A payload and its delimiter through a COBSE. -/
theorem execAll_cobseFrame (s : State) (payload : List Byte) :
    let e := (s.cobseOf s.port).enc
    ∃ t, execAll (payload.map Instr.cobseData ++ [Instr.cobseDlm]) s = .next t ∧
      t.cobseOf s.port = ⟨(e.feed payload).1.delimiter.1,
        (s.cobseOf s.port).out ++ ((e.feed payload).2 ++ (e.feed payload).1.delimiter.2)⟩ ∧ onlyCobse s t := by
  intro e
  refine execAll_cobse s _ _ (by simp [or_imp, forall_and, Instr.unit]) ?_
  rw [UnitView.run_append, UnitView.run_cobseData]
  simp only [UnitView.run_cons, UnitView.run_nil, UnitView.effect, UnitView.emit, List.append_assoc]
  rfl

/-- Settles O43. -/
theorem encoderOutputIsTheClosedForm : Obligations.EncoderOutputIsTheClosedForm := by
  intro s payload reset
  obtain ⟨t, completes, unit, frame⟩ := execAll_cobseFrame s payload
  exact ⟨t, _, completes, by rw [unit], Encoder.wireBytes_frame _ reset payload,
    by rw [unit]; exact Encoder.delimiter_index _, frame⟩

/-! ## The length of the closed form (R165) -/

theorem Wire.body_append (xs ys : List (List Byte)) : Wire.body (xs ++ ys) = Wire.body xs ++ Wire.body ys := by
  induction xs with
  | nil => rfl
  | cons x xs ih => rw [List.cons_append, Wire.body, Wire.body, ih, List.append_assoc]

/-- A run costs its bytes and one prefix for each block. -/
theorem Wire.length_body_runBlocks (full : Nat) (r : List Byte) (blocks : 254 * full ≤ r.length) :
    (Wire.body (Wire.runBlocks full r)).length = r.length + full + 1 := by
  induction full generalizing r with
  | zero => simp [Wire.runBlocks, Wire.body, Wire.block]
  | succ k ih =>
    have rest := ih (r.drop Config.maxPayload) (by rw [List.length_drop]; show _ ≤ r.length - 254; omega)
    rw [Wire.runBlocks, Wire.body, List.length_append, rest, Wire.block, List.length_cons, List.length_take, List.length_drop]
    show min 254 r.length + 1 + (r.length - 254 + k + 1) = _
    omega

theorem Wire.length_body_allBlocks (rs : List (List Byte)) :
    (Wire.body (Wire.allBlocks rs)).length = (rs.map fun r => r.length + 1).sum + (rs.map fun r => r.length / 254).sum := by
  induction rs with
  | nil => rfl
  | cons r rs ih =>
    rw [Wire.allBlocks, Wire.body_append, List.length_append, ih, Wire.length_body_runBlocks (r.length / Config.maxPayload) r
      (Nat.mul_div_le _ _)]
    simp only [List.map_cons, List.sum_cons]
    show _ + r.length / 254 + _ + _ = _
    omega

/-- The runs hold every byte but the zeros between them. -/
theorem Wire.sum_length_runs (s : List Byte) : ((Wire.runs s).map fun r => r.length + 1).sum = s.length + 1 := by
  induction s with
  | nil => rfl
  | cons b s ih =>
    obtain ⟨r, more, runs⟩ := Wire.runs_cons s
    rw [runs, List.map_cons, List.sum_cons] at ih
    rw [Wire.runs]
    split
    · rw [runs, List.map_cons, List.sum_cons, List.map_cons, List.sum_cons, ih, List.length_cons, List.length_nil]; omega
    · rw [runs]
      simp only [List.map_cons, List.sum_cons, List.length_cons]
      omega

theorem Wire.sum_div_le (rs : List (List Byte)) :
    (rs.map fun r => r.length / 254).sum ≤ ((rs.map fun r => r.length + 1).sum - rs.length) / 254 := by
  have lengths (rs : List (List Byte)) : rs.length ≤ (rs.map fun r => r.length + 1).sum := by
    induction rs with
    | nil => exact le_rfl
    | cons r rs ih => simp only [List.map_cons, List.sum_cons, List.length_cons]; omega
  induction rs with
  | nil => exact Nat.zero_le _
  | cons r rs ih =>
    have := lengths rs
    simp only [List.map_cons, List.sum_cons, List.length_cons]
    omega

/-- Settles O44: the blocks' prefixes and bytes counted run by run. -/
theorem encodedLengthFormula : Obligations.EncodedLengthFormula := by
  intro payload nonempty
  obtain ⟨r, more, runs⟩ := Wire.runs_cons payload
  have lengths := Wire.sum_length_runs payload
  have bound := Wire.sum_div_le (Wire.runs payload)
  have formula : (Wire.frame payload).length =
      payload.length + 2 + ((Wire.runs payload).map fun r => r.length / 254).sum := by
    rw [Wire.frame, if_neg nonempty, List.length_append, Wire.length_body_allBlocks, lengths, List.length_singleton]
    omega
  refine ⟨formula, ?_⟩
  rw [lengths] at bound
  have oneRun : 1 ≤ (Wire.runs payload).length := by rw [runs]; simp
  have := bound.trans (Nat.div_le_div_right (c := 254) (show payload.length + 1 - (Wire.runs payload).length ≤ payload.length by omega))
  omega

/-! ## The blocks of a payload stand for it (R81, R165) -/

theorem Wire.packet_cons_cons (p q : List Byte) (rest : List (List Byte)) :
    Wire.packet (p :: q :: rest) = Wire.followed p ++ Wire.packet (q :: rest) := rfl

theorem Wire.runBlocks_cons (full : Nat) (r : List Byte) : ∃ p rest, Wire.runBlocks full r = p :: rest := by
  cases full <;> exact ⟨_, _, rfl⟩

/-- The blocks of a run stand for the run, and for a zero behind it if more blocks follow. -/
theorem Wire.packet_runBlocks_append (full : Nat) (r : List Byte) (more : List (List Byte))
    (atLeast : 254 * full ≤ r.length) (atMost : r.length ≤ 254 * full + 253) :
    Wire.packet (Wire.runBlocks full r ++ more) = r ++ if more = [] then [] else 0x00#8 :: Wire.packet more := by
  induction full generalizing r with
  | zero =>
    cases more with
    | nil => simp [Wire.runBlocks, Wire.packet, Wire.pieces]
    | cons q more =>
      have short : ¬ r.length = Config.maxPayload := by show ¬ r.length = 254; omega
      rw [Wire.runBlocks, List.singleton_append, Wire.packet_cons_cons, Wire.followed, if_neg short,
        if_neg (List.cons_ne_nil _ _), List.append_assoc]
      rfl
  | succ k ih =>
    have length : (r.drop Config.maxPayload).length = r.length - 254 := List.length_drop
    have full : (r.take Config.maxPayload).length = Config.maxPayload :=
      List.length_take_of_le (by show 254 ≤ r.length; omega)
    have rest := ih (r.drop Config.maxPayload) (by omega) (by omega)
    obtain ⟨p, ps, blocks⟩ := Wire.runBlocks_cons k (r.drop Config.maxPayload)
    rw [blocks, List.cons_append] at rest
    rw [Wire.runBlocks, blocks, List.cons_append, List.cons_append, Wire.packet_cons_cons, Wire.followed, if_pos full, rest,
      ← List.append_assoc, List.take_append_drop]

theorem Wire.packet_allBlocks_cons (r : List Byte) (rs : List (List Byte)) :
    Wire.packet (Wire.allBlocks (r :: rs)) =
      r ++ if Wire.allBlocks rs = [] then [] else 0x00#8 :: Wire.packet (Wire.allBlocks rs) := by
  have blocks : r.length / Config.maxPayload = r.length / 254 := rfl
  exact Wire.packet_runBlocks_append _ r _ (by omega) (by omega)

theorem Wire.packet_allBlocks_runs (s : List Byte) : Wire.packet (Wire.allBlocks (Wire.runs s)) = s := by
  induction s with
  | nil => rfl
  | cons b s ih =>
    obtain ⟨r, more, runs⟩ := Wire.runs_cons s
    rw [runs] at ih
    rw [Wire.runs]
    split
    next zero =>
      obtain ⟨p, rest, blocks⟩ := Wire.runBlocks_cons (r.length / Config.maxPayload) r
      rw [runs, Wire.packet_allBlocks_cons, ih, if_neg (by rw [Wire.allBlocks, blocks]; exact List.cons_ne_nil _ _), zero]
      rfl
    next nonzero =>
      rw [Wire.packet_allBlocks_cons] at ih
      rw [runs, Wire.packet_allBlocks_cons, List.cons_append, ih]

theorem Wire.runs_nonzero (s : List Byte) : ∀ r ∈ Wire.runs s, ∀ b ∈ r, b ≠ 0 := by
  induction s with
  | nil => simp [Wire.runs]
  | cons b s ih =>
    obtain ⟨r, more, runs⟩ := Wire.runs_cons s
    rw [Wire.runs]
    split
    · exact List.forall_mem_cons.2 ⟨nofun, ih⟩
    next nonzero =>
      rw [runs] at ih ⊢
      obtain ⟨first, others⟩ := List.forall_mem_cons.1 ih
      exact List.forall_mem_cons.2 ⟨List.forall_mem_cons.2 ⟨nonzero, first⟩, others⟩

theorem Wire.blockOk_runBlocks (full : Nat) (r : List Byte) (atMost : r.length ≤ 254 * full + 253)
    (nonzero : ∀ b ∈ r, b ≠ 0) : ∀ p ∈ Wire.runBlocks full r, Wire.blockOk p = true := by
  induction full generalizing r with
  | zero =>
    rw [Wire.runBlocks, List.forall_mem_singleton]
    exact (Wire.blockOk_iff r).2 ⟨by omega, nonzero⟩
  | succ k ih =>
    have length : (r.drop Config.maxPayload).length = r.length - 254 := List.length_drop
    exact List.forall_mem_cons.2
      ⟨(Wire.blockOk_iff _).2 ⟨List.length_take_le _ _, fun b mem => nonzero b (List.mem_of_mem_take mem)⟩,
       ih _ (by omega) fun b mem => nonzero b (List.mem_of_mem_drop mem)⟩

theorem Wire.blockOk_allBlocks (rs : List (List Byte)) (nonzero : ∀ r ∈ rs, ∀ b ∈ r, b ≠ 0) :
    ∀ p ∈ Wire.allBlocks rs, Wire.blockOk p = true := by
  induction rs with
  | nil => nofun
  | cons r rs ih =>
    obtain ⟨first, others⟩ := List.forall_mem_cons.1 nonzero
    have blocks : r.length / Config.maxPayload = r.length / 254 := rfl
    exact List.forall_mem_append.2 ⟨Wire.blockOk_runBlocks _ r (by omega) first, ih others⟩

/-- The closed form is a framed packet: legal blocks that stand for the payload, and the delimiter. -/
theorem Wire.frame_eq (s : List Byte) : ∃ blocks, Wire.frame s = Wire.body blocks ++ [0x00#8] ∧
    (∀ p ∈ blocks, Wire.blockOk p = true) ∧ Wire.packet blocks = s := by
  rw [Wire.frame]
  split
  next empty => exact ⟨[], rfl, nofun, empty.symm⟩
  next => exact ⟨_, rfl, Wire.blockOk_allBlocks _ (Wire.runs_nonzero s), Wire.packet_allBlocks_runs s⟩

/-- A decoder with reset cursors reads the closed form of a payload as that payload (R139). -/
theorem Decoder.feed_wireFrame (d : Decoder) (reset : d.atReset) (s : List Byte) :
    (d.feed (Wire.frame s)).1.atReset ∧
    ∃ pieces, (d.feed (Wire.frame s)).2 = Wire.blockEvents d.cap 0 pieces ++ Wire.endEvents d.cap s := by
  obtain ⟨blocks, frame, legal, packet⟩ := Wire.frame_eq s
  obtain ⟨events, reset'⟩ := d.feed_frame reset blocks legal
  rw [frame]
  exact ⟨reset', _, by rw [events, packet]⟩

theorem Wire.mem_blockEvents (cap total : Nat) (pieces : List (List Byte)) :
    ∀ ev ∈ Wire.blockEvents cap total pieces, ∃ c, ev = .block c := by
  induction pieces generalizing total with
  | nil => nofun
  | cons p rest ih =>
    rw [Wire.blockEvents]
    split
    · exact ih total
    · exact List.forall_mem_cons.2 ⟨⟨_, rfl⟩, ih _⟩

/-- Settles O39: what O43 puts on the wire is what `Decoder.feed_wireFrame` reads. -/
theorem cobsRoundTrip : Obligations.CobsRoundTrip := by
  intro s payload encReset decReset nonempty fits
  obtain ⟨t, completes, unit, frame⟩ := execAll_cobseFrame s payload
  obtain ⟨⟨port, -⟩, -, -, -, cobsd, -, -⟩ := frame
  have sameDecoder : t.cobsdOf t.port = s.cobsdOf s.port := by rw [State.cobsdOf, cobsd, port]; rfl
  refine ⟨t, _, completes, by rw [unit], ?_⟩
  rw [Encoder.wireBytes_frame _ encReset]
  obtain ⟨t', completes', unit', -⟩ := execAll_cobsd t ((Wire.frame payload).map Instr.cobsdByte) _
    (by simp only [List.forall_mem_map]; exact fun _ _ => rfl) (UnitView.run_cobsdByte _ _)
  rw [sameDecoder, port] at unit'
  obtain ⟨reset', pieces, events⟩ := (s.cobsdOf s.port).dec.feed_wireFrame decReset payload
  refine ⟨t', _, completes', by rw [unit']; exact reset', ?_, Wire.mem_blockEvents (s.cobsdOf s.port).dec.cap 0 pieces⟩
  rw [unit', events, Wire.endEvents, if_neg (by omega), if_pos fits, List.append_assoc]

end Sys2Proof.Machine

/-! PROOF. The checked framer (43_crc16_framer.md R181 to R189) and the errors of all commands (60_exceptions.md R220, R228). -/

namespace Sys2Proof.Machine

/-! ## CKD.BYTE and the check (R181 to R183) -/

theorem ckdEvents_eq_flatMap (forward : Bool) (f : Event → List Event) (evs : List Event)
    (same : ∀ ev ∈ evs, ckdForward forward ev = f ev) : ckdEvents forward evs = evs.flatMap f := by
  induction evs with
  | nil => rfl
  | cons ev evs ih =>
    obtain ⟨first, others⟩ := List.forall_mem_cons.1 same
    rw [ckdEvents_cons, List.flatMap_cons, first, ih others]

/-- Each event of a COBS decoder's byte is a notification, a packet or an error (R138). -/
theorem Decoder.mem_byte_events (d : Decoder) (b : Byte) (ev : Event) (mem : ev ∈ (d.byte b).2) :
    (∃ c, ev = .block c) ∨ (∃ t, ev = .packetEnd t) ∨ (∃ p, ev = .packet p) ∨ ∃ e, ev = .err e := by
  obtain ⟨notes, last, events, notifications, ending⟩ := d.byte_events b
  rw [events] at mem
  rcases List.mem_append.1 mem with mem | mem
  · rcases notifications ev mem with block | packetEnd
    · exact .inl block
    · exact .inr (.inl packetEnd)
  · rcases ending with rfl | ⟨_, ⟨p, rfl⟩ | rfl | ⟨n, rfl⟩⟩
    · cases mem
    · exact .inr (.inr (.inl ⟨p, List.mem_singleton.1 mem⟩))
    · exact .inr (.inr (.inr ⟨_, List.mem_singleton.1 mem⟩))
    · exact .inr (.inr (.inr ⟨_, List.mem_singleton.1 mem⟩))

/-- Settles O46: the inner decoder is the COBSD's, and event by event `ckdForward` is the statement's case distinction on the
kinds that occur. -/
theorem ckdByteChecksTheInnerEvents : Obligations.CkdByteChecksTheInnerEvents := by
  refine ⟨decode_ckdByte, fun s r b sameDecoder => ?_⟩
  obtain ⟨r', innerCompletes, innerDec, innerOut, -⟩ := exec_cobsdByte_only r b
  rw [sameDecoder] at innerDec innerOut
  obtain ⟨t, completes, dec, forward, out, frame⟩ := s.commitCkd_only
    ({ s.ckdOf s.port with dec := ((s.ckdOf s.port).dec.byte b).1 },
      ckdEvents (s.ckdOf s.port).forward ((s.ckdOf s.port).dec.byte b).2)
  refine ⟨t, r', _, innerCompletes, innerOut, completes, dec.trans innerDec.symm, forward, ?_, frame⟩
  rw [out]
  congr 1
  refine ckdEvents_eq_flatMap _ _ _ fun ev mem => ?_
  rcases Decoder.mem_byte_events _ b ev mem with ⟨c, rfl⟩ | ⟨n, rfl⟩ | ⟨p, rfl⟩ | ⟨e, rfl⟩ <;> rfl

/-- Settles O47: the three cases of `checkPacket_cases`, the residue read by `crcFeed16_residue_iff`. -/
theorem checkPacketAcceptsExactlyTheRightSuffix : Obligations.CheckPacketAcceptsExactlyTheRightSuffix := by
  refine ⟨fun p short => ?_, fun payload x y nonempty => ?_⟩
  · rcases checkPacket_cases p with ⟨_, small⟩ | ⟨long, _⟩ | ⟨long, _⟩
    · exact small
    · omega
    · omega
  · have positive := List.length_pos_iff.2 nonempty
    have length : (payload ++ [x, y]).length = payload.length + 2 := by simp
    have residue : crcFeed Config.crc16Poly Config.crc16Init (payload ++ [x, y]) = Config.crc16Residue ↔
        [x, y] = leBytes16 (crcFeed 0x8408#16 0xFFFF#16 payload ^^^ 0xFFFF#16) := by
      rw [crcFeed_append]; exact crcFeed16_residue_iff _ x y
    rcases checkPacket_cases (payload ++ [x, y]) with ⟨short, _⟩ | ⟨_, verifies, check⟩ | ⟨_, fails, check⟩
    · omega
    · rw [check, if_pos (residue.1 verifies), length, Nat.add_sub_cancel, List.take_left' rfl]
    · rw [check, if_neg fun suffix => fails (residue.2 suffix)]

/-! ## CKE.DATA and CKE.FRAME (R185 to R187) -/

/-- Settles O48: `CkeUnit.data` field by field. -/
theorem ckeDataEncodesFoldsAndCounts : Obligations.CkeDataEncodesFoldsAndCounts := by
  refine ⟨decode_ckeData, fun s r b sameEncoder => ?_⟩
  obtain ⟨r', innerCompletes, innerEnc, innerOut, -⟩ := exec_cobseData_only r b
  rw [sameEncoder] at innerEnc innerOut
  obtain ⟨t, completes, unit, frame⟩ := s.commitCke_only ((s.ckeOf s.port).data b)
  refine ⟨t, r', _, innerCompletes, innerOut, completes, ?_, ?_, ?_, ?_, frame⟩ <;> rw [unit]
  · exact innerEnc.symm
  · rfl
  · rfl
  · rfl

/-- The bytes CKE.DLM appends after a payload make it the packet of the checked framing (R83). -/
theorem CkeUnit.append_suffix (u : CkeUnit) (payload : List Byte) (count : u.count = payload.length)
    (crc : u.crc = crcFeed Config.crc16Poly Config.crc16Init payload) : payload ++ u.suffix = Wire.suffixed payload := by
  rw [CkeUnit.suffix, Wire.suffixed, count, crc]
  cases payload <;> rfl

/-- A payload and DLM from the reset state of a CKE: the inner encoder takes payload and suffix, and is closed. -/
theorem UnitView.run_ckePayload (u : CkeUnit) (reset : u.atReset) (payload : List Byte) :
    ∃ wire u', (UnitView.cke u).run (payload.map Instr.ckeData ++ [Instr.ckeDlm]) = .cke u' ∧ u'.out = u.out ++ wire ∧
      wireBytes wire = Wire.frame (Wire.suffixed payload) ∧ u'.atReset := by
  obtain ⟨index, crc, count⟩ := reset
  let fed : CkeUnit := { enc := (u.enc.feed payload).1, crc := crcFeed Config.crc16Poly u.crc payload,
                         count := u.count + payload.length, out := u.out ++ (u.enc.feed payload).2 }
  have suffixed : payload ++ fed.suffix = Wire.suffixed payload :=
    fed.append_suffix payload (by simp [fed, count]) (by simp only [fed, crc]; rfl)
  refine ⟨(u.enc.feed payload).2 ++ fed.delimiter.2, { fed.delimiter.1 with out := fed.out ++ fed.delimiter.2 }, ?_,
    List.append_assoc _ _ _, ?_, fed.atReset_delimiter⟩
  · rw [UnitView.run_append, UnitView.run_ckeData]
    rfl
  · rw [← suffixed, ← Encoder.wireBytes_frame _ index, Encoder.feed_append, List.append_assoc]
    rfl

/-- CKE.FRAME from the reset state: the open delimiter, then payload, suffix and delimiter. -/
theorem execAll_ckeFrame (s : State) (payload : List Byte) (reset : (s.ckeOf s.port).atReset) :
    ∃ t wire, execAll (Pseudo.expand (.ckeFrame payload)) s = .next t ∧
      (t.ckeOf s.port).out = (s.ckeOf s.port).out ++ wire ∧ wireBytes wire = Wire.checkedFrame payload ∧
      (t.ckeOf s.port).atReset ∧ onlyCke s t := by
  have noSuffix : (s.ckeOf s.port).suffix = [] := by rw [CkeUnit.suffix, reset.2.2]; rfl
  have opening : (s.ckeOf s.port).delimiter.2 = [.chunk [0x00#8]] := by
    rw [CkeUnit.delimiter, noSuffix, Encoder.feed_nil]
    exact Encoder.delimiter_events_of_none _ reset.1
  obtain ⟨wire, u', run, out, bytes, reset'⟩ := UnitView.run_ckePayload
    { (s.ckeOf s.port).delimiter.1 with out := (s.ckeOf s.port).out ++ (s.ckeOf s.port).delimiter.2 }
    (s.ckeOf s.port).atReset_delimiter payload
  obtain ⟨t, completes, unit, frame⟩ := execAll_cke s (Pseudo.expand (.ckeFrame payload)) u'
    (by simp [Pseudo.expand, or_imp, forall_and, Instr.unit]) run
  refine ⟨t, .chunk [0x00#8] :: wire, completes, ?_, ?_, by rwa [unit], frame⟩
  · rw [unit, out, opening, List.append_assoc]; rfl
  · rw [wireBytes, bytes]; rfl

/-- Settles O50. -/
theorem checkedFrameOnTheWire : Obligations.CheckedFrameOnTheWire := fun s payload reset =>
  execAll_ckeFrame s payload reset

/-! ## The round trip (R184, R189) -/

/-- Without forwarding, notifications give nothing. -/
theorem ckdEvents_false_of_notes (notes : List Event)
    (notifications : ∀ ev ∈ notes, (∃ c, ev = .block c) ∨ ∃ t, ev = .packetEnd t) : ckdEvents false notes = [] := by
  induction notes with
  | nil => rfl
  | cons ev notes ih =>
    obtain ⟨first, others⟩ := List.forall_mem_cons.1 notifications
    rw [ckdEvents_cons, ih others, List.append_nil]
    rcases first with ⟨c, rfl⟩ | ⟨t, rfl⟩ <;> rfl

theorem checkPacket_suffixed (payload : List Byte) (nonempty : payload ≠ []) :
    checkPacket (Wire.suffixed payload) = [.packet payload] := by
  rw [Wire.suffixed, if_neg nonempty]
  exact (checkPacketAcceptsExactlyTheRightSuffix.2 payload _ _ nonempty).trans (if_pos rfl)

theorem Wire.length_suffixed (payload : List Byte) (nonempty : payload ≠ []) :
    (Wire.suffixed payload).length = payload.length + 2 := by
  rw [Wire.suffixed, if_neg nonempty, List.length_append, leBytes16_length]

/-- What a packet end of the checked framing gives without forwarding. -/
theorem ckdEvents_endEvents_suffixed (cap : Nat) (payload : List Byte) :
    ckdEvents false (Wire.endEvents cap (Wire.suffixed payload)) =
      if payload = [] then []
      else if payload.length + 2 ≤ cap then [.packet payload]
      else [.err (.overflow (payload.length + 2))] := by
  by_cases empty : payload = []
  · rw [empty]; rfl
  · rw [if_neg empty, Wire.endEvents, ckdEvents_cons, Wire.length_suffixed payload empty, if_neg (Nat.succ_ne_zero _)]
    split
    · exact (List.append_nil _).trans (checkPacket_suffixed payload empty)
    · rfl

/-- A checked frame through a decoder with reset cursors: the open delimiter ends an empty packet, the rest is the closed form. -/
theorem Decoder.ckdEvents_checkedFrame (d : Decoder) (reset : d.atReset) (payload : List Byte) :
    (d.feed (Wire.checkedFrame payload)).1.atReset ∧
    ckdEvents false (d.feed (Wire.checkedFrame payload)).2 =
      ckdEvents false (Wire.endEvents d.cap (Wire.suffixed payload)) := by
  obtain ⟨opening, reset'⟩ := d.feed_frame reset [] nofun
  have cap : (d.feed [0x00#8]).1.cap = d.cap := d.byte_cap 0
  obtain ⟨reset'', pieces, events⟩ := (d.feed [0x00#8]).1.feed_wireFrame reset' (Wire.suffixed payload)
  have whole : d.feed (Wire.checkedFrame payload) = d.feed ([0x00#8] ++ Wire.frame (Wire.suffixed payload)) := rfl
  rw [whole, Decoder.feed_append]
  refine ⟨reset'', ?_⟩
  have silent := ckdEvents_false_of_notes (Wire.blockEvents d.cap 0 pieces)
    fun ev mem => .inl (Wire.mem_blockEvents _ _ _ ev mem)
  rw [events, cap, ckdEvents_append, ckdEvents_append, silent, List.nil_append, show (d.feed [0x00#8]).2 = _ from opening]
  rfl

/-- Settles O51: what `execAll_ckeFrame` puts on the wire, through the decoder of the CKD. -/
theorem checkedRoundTrip : Obligations.CheckedRoundTrip := by
  intro s payload ckeReset ckdReset silent
  obtain ⟨t, wire, completes, out, bytes, -, frame⟩ := execAll_ckeFrame s payload ckeReset
  obtain ⟨⟨port, -⟩, -, -, -, -, -, ckd⟩ := frame
  have sameDecoder : t.ckdOf t.port = s.ckdOf s.port := by rw [State.ckdOf, ckd, port]; rfl
  refine ⟨t, wire, completes, out, ?_⟩
  rw [bytes]
  obtain ⟨t', completes', unit', -⟩ := execAll_ckd t ((Wire.checkedFrame payload).map Instr.ckdByte) _
    (by simp only [List.forall_mem_map]; exact fun _ _ => rfl) (UnitView.run_ckdByte _ _)
  rw [sameDecoder, port, silent] at unit'
  obtain ⟨reset', events⟩ := (s.ckdOf s.port).dec.ckdEvents_checkedFrame ckdReset payload
  refine ⟨t', completes', by rw [unit']; exact reset', ?_⟩
  rw [unit', events, ckdEvents_endEvents_suffixed]

/-! ## Errors (R220, R228) -/

/-- The commands that raise an error, by the table of R220. -/
def Error.raisedBy (e : Error) (i : Instr) : Prop :=
  match e with
  | .invalidFormat => ∃ f : Byte, f ≠ 0 ∧ f ≠ 1 ∧ (i = .crc16Fin f ∨ i = .crc32Fin f)
  | .unexpectedZero | .overflow _ => i = .cobsdByte 0 ∨ i = .ckdByte 0
  | .tooSmallForCrc16 _ | .crcMismatch => i = .ckdByte 0

/-- What R220 and R228 say of the events of a command: at most one error, and one that the command raises. -/
def ErrorsOk (i : Instr) (evs : List Event) : Prop :=
  (evs.filter Event.isError).length ≤ 1 ∧ ∀ e, .err e ∈ evs → e.raisedBy i

theorem ErrorsOk.of_none (i : Instr) (evs : List Event) (none : ∀ ev ∈ evs, ev.isError = false) : ErrorsOk i evs := by
  refine ⟨?_, fun e mem => absurd (none _ mem) (by simp [Event.isError])⟩
  rw [List.filter_eq_nil_iff.2 fun ev mem => by simp [none ev mem]]
  exact Nat.zero_le _

theorem ErrorsOk.singleton (i : Instr) (ev : Event) (raised : ∀ e, ev = .err e → e.raisedBy i) : ErrorsOk i [ev] :=
  ⟨List.length_filter_le _ _, fun e mem => raised e (List.mem_singleton.1 mem).symm⟩

/-- Events that are no errors do not count. -/
theorem ErrorsOk.append (i : Instr) (notes last : List Event) (none : ∀ ev ∈ notes, ev.isError = false)
    (ok : ErrorsOk i last) : ErrorsOk i (notes ++ last) := by
  obtain ⟨atMost, raised⟩ := ok
  refine ⟨?_, fun e mem => ?_⟩
  · rwa [List.filter_append, List.filter_eq_nil_iff.2 fun ev mem => by simp [none ev mem], List.nil_append]
  · rcases List.mem_append.1 mem with mem | mem
    · exact absurd (none _ mem) (by simp [Event.isError])
    · exact raised e mem

theorem finish_errorsOk (i : Instr) (f : Byte) (value : Event) (seq : List Byte) {σ : Type} (u : σ)
    (noError : value.isError = false) (fin : i = .crc16Fin f ∨ i = .crc32Fin f) : ErrorsOk i (finish f value seq u).2 := by
  rcases finish_cases f value seq u with ⟨_, num⟩ | ⟨_, asBytes⟩ | ⟨ne0, ne1, other⟩
  · rw [num]; exact .of_none _ _ (by simpa using noError)
  · rw [asBytes]; exact .of_none _ _ (by simp [Event.isError])
  · rw [other]; exact .singleton _ _ fun e raised => by cases raised; exact ⟨f, ne0, ne1, fin⟩

theorem isError_of_notification (ev : Event) (notification : (∃ c, ev = .block c) ∨ ∃ t, ev = .packetEnd t) :
    ev.isError = false := by
  rcases notification with ⟨c, rfl⟩ | ⟨t, rfl⟩ <;> rfl

/-- R183: a notification is passed on or dropped. -/
theorem ckdForward_of_notification (forward : Bool) (ev : Event)
    (notification : (∃ c, ev = .block c) ∨ ∃ t, ev = .packetEnd t) :
    ckdForward forward ev = [] ∨ ckdForward forward ev = [ev] := by
  rcases notification with ⟨c, rfl⟩ | ⟨t, rfl⟩ <;> cases forward
  · exact .inl rfl
  · exact .inr rfl
  · exact .inl rfl
  · exact .inr rfl

theorem Decoder.byte_errorsOk (d : Decoder) (b : Byte) : ErrorsOk (.cobsdByte b) (d.byte b).2 := by
  obtain ⟨notes, last, events, notifications, ending⟩ := d.byte_events b
  rw [events]
  refine .append _ _ _ (fun ev mem => isError_of_notification ev (notifications ev mem)) ?_
  rcases ending with rfl | ⟨rfl, ⟨p, rfl⟩ | rfl | ⟨n, rfl⟩⟩
  · exact .of_none _ _ nofun
  · exact .of_none _ _ (by simp [Event.isError])
  · exact .singleton _ _ fun e raised => by cases raised; exact .inl rfl
  · exact .singleton _ _ fun e raised => by cases raised; exact .inl rfl

/-- Checking keeps notifications at most, and turns a last packet or error into one event. -/
theorem ckdEvents_errorsOk (forward : Bool) (d : Decoder) (b : Byte) :
    ErrorsOk (.ckdByte b) (ckdEvents forward (d.byte b).2) := by
  obtain ⟨notes, last, events, notifications, ending⟩ := d.byte_events b
  rw [events, ckdEvents_append]
  refine .append _ _ _ (fun ev mem => ?_) ?_
  · rw [ckdEvents_eq_flatMap forward (ckdForward forward) notes fun _ _ => rfl] at mem
    obtain ⟨inner, inNotes, mem⟩ := List.mem_flatMap.1 mem
    rcases ckdForward_of_notification forward inner (notifications inner inNotes) with dropped | kept
    · rw [dropped] at mem; cases mem
    · rw [kept, List.mem_singleton] at mem
      exact mem ▸ isError_of_notification inner (notifications inner inNotes)
  · rcases ending with rfl | ⟨rfl, ⟨p, rfl⟩ | rfl | ⟨n, rfl⟩⟩
    · exact .of_none _ _ nofun
    · rw [ckdEvents_cons, ckdEvents_nil, List.append_nil, ckdForward]
      rcases checkPacket_cases p with ⟨_, check⟩ | ⟨_, _, check⟩ | ⟨_, _, check⟩ <;> rw [check]
      · exact .singleton _ _ fun e raised => by cases raised; exact rfl
      · exact .of_none _ _ (by simp [Event.isError])
      · exact .singleton _ _ fun e raised => by cases raised; exact rfl
    · exact .singleton _ _ fun e raised => by cases raised; exact .inr rfl
    · exact .singleton _ _ fun e raised => by cases raised; exact .inr rfl

theorem Encoder.data_noError (e : Encoder) (b : Byte) : ∀ ev ∈ (e.data b).2, ev.isError = false := by
  rcases e.data_payload_cases b with ⟨_, events, _⟩ | ⟨_, _, events, _⟩ | ⟨_, _, events, _⟩ <;> simp [events, Event.isError]

theorem Encoder.delimiter_noError (e : Encoder) : ∀ ev ∈ e.delimiter.2, ev.isError = false := by
  rcases eq_or_ne e.index 0 with none | pending
  · simp [e.delimiter_events_of_none none, Event.isError]
  · simp [e.delimiter_events pending, Event.isError]

theorem Encoder.feed_noError (s : List Byte) (e : Encoder) : ∀ ev ∈ (e.feed s).2, ev.isError = false := by
  induction s generalizing e with
  | nil => nofun
  | cons b s ih => exact List.forall_mem_append.2 ⟨e.data_noError b, ih _⟩

/-- R220, R228 for every command. -/
theorem State.effect_errorsOk (s : State) (i : Instr) : ErrorsOk i ((s.view i.unit s.port).effect i).2 := by
  have silent (i : Instr) : ErrorsOk i [] := .of_none _ _ nofun
  cases i with
  | crc16Rst | crc16Upd | crc32Rst | crc32Upd | cobsdRst | ckdRst => exact silent _
  | crc16Fin f => exact finish_errorsOk _ f _ _ _ rfl (.inl rfl)
  | crc32Fin f => exact finish_errorsOk _ f _ _ _ rfl (.inr rfl)
  | crc16Vfy | crc32Vfy => exact .singleton _ _ nofun
  | cobsdByte b => exact Decoder.byte_errorsOk _ b
  | ckdByte b => exact ckdEvents_errorsOk _ _ b
  | cobseData b | ckeData b => exact .of_none _ _ (Encoder.data_noError _ b)
  | cobseDlm => exact .of_none _ _ (Encoder.delimiter_noError _)
  | ckeDlm => exact .of_none _ _ (List.forall_mem_append.2 ⟨Encoder.feed_noError _ _, Encoder.delimiter_noError _⟩)

/-- Settles O57. -/
theorem atMostOneErrorPerCommand : Obligations.AtMostOneErrorPerCommand := by
  intro i s
  obtain ⟨t, completes, -, out, -⟩ := exec_spec i s
  exact ⟨t, _, completes, out, (s.effect_errorsOk i).1⟩

/-- FIN leaves both registers at the port as they were, its own unit's and the other's. -/
theorem exec_fin_registers (s t : State) (i : Instr) (f : Byte) (fin : i = .crc16Fin f ∨ i = .crc32Fin f)
    (completes : exec i s = .next t) :
    (t.crc16Of s.port).reg = (s.crc16Of s.port).reg ∧ (t.crc32Of s.port).reg = (s.crc32Of s.port).reg := by
  rcases fin with rfl | rfl
  · obtain ⟨t', completes', reg, -, frame⟩ := s.commitCrc16_only (finish f (.value16 (finValue16 (s.crc16Of s.port).reg))
      (leBytes16 (finValue16 (s.crc16Of s.port).reg)) (s.crc16Of s.port))
    cases completes.symm.trans completes'
    obtain ⟨-, -, crc32, -⟩ := frame
    exact ⟨by rw [reg, finish_fst], by rw [State.crc32Of, crc32]; rfl⟩
  · obtain ⟨t', completes', reg, -, frame⟩ := s.commitCrc32_only (finish f (.value32 (finValue32 (s.crc32Of s.port).reg))
      (leBytes32 (finValue32 (s.crc32Of s.port).reg)) (s.crc32Of s.port))
    cases completes.symm.trans completes'
    obtain ⟨-, -, crc16, -⟩ := frame
    exact ⟨by rw [State.crc16Of, crc16]; rfl, by rw [reg, finish_fst]⟩

theorem exec_ckdByte_zero_atReset (s t : State) (completes : exec (.ckdByte 0) s = .next t) :
    (t.ckdOf s.port).dec.atReset := by
  obtain ⟨t', completes', dec, -⟩ := s.commitCkd_only ({ s.ckdOf s.port with dec := ((s.ckdOf s.port).dec.byte 0).1 },
    ckdEvents (s.ckdOf s.port).forward ((s.ckdOf s.port).dec.byte 0).2)
  cases completes.symm.trans completes'
  rw [dec]
  exact Decoder.atReset_byte_zero _

/-- Settles O58: `Error.raisedBy` names the command, and the state after it is that command's. -/
theorem errorsComeFromTheTabulatedCommands : Obligations.ErrorsComeFromTheTabulatedCommands := by
  intro i s
  obtain ⟨t, completes, -, out, -⟩ := exec_spec i s
  have byteZero (raised : i = .cobsdByte 0 ∨ i = .ckdByte 0) :
      (i = .cobsdByte 0 ∧ (t.cobsdOf s.port).dec.atReset) ∨ (i = .ckdByte 0 ∧ (t.ckdOf s.port).dec.atReset) := by
    rcases raised with rfl | rfl
    · obtain ⟨t', completes', reset⟩ := exec_cobsdByte_zero_atReset s
      cases completes.symm.trans completes'
      exact .inl ⟨rfl, reset⟩
    · exact .inr ⟨rfl, exec_ckdByte_zero_atReset s t completes⟩
  have checkZero (raised : i = .ckdByte 0) : i = .ckdByte 0 ∧ (t.ckdOf s.port).dec.atReset :=
    ⟨raised, exec_ckdByte_zero_atReset s t (raised ▸ completes)⟩
  refine ⟨t, _, completes, out, fun e mem => ?_⟩
  have raised := (s.effect_errorsOk i).2 e mem
  refine ⟨?_, ?_, ?_⟩
  · rintro rfl
    obtain ⟨f, ne0, ne1, fin⟩ := raised
    exact ⟨⟨f, ne0, ne1, fin⟩, exec_fin_registers s t i f fin completes⟩
  · rintro (rfl | ⟨n, rfl⟩) <;> exact byteZero raised
  · rintro (⟨n, rfl⟩ | rfl) <;> exact checkZero raised

end Sys2Proof.Machine

/-! PROOF. The invariants of reachable states (10_state.md R24, R26, R38; 20_memory.md R51): kept by every operation of a decoder
and an encoder, hence by the effect of every command, hence by every step. -/

namespace Sys2Proof.Machine

/-! ## Decoders (R24) -/

/-- I2, I3 and the buffers of `Decoder.Inv`: the part that does not speak of the block's cursors. -/
structure Decoder.BuffersOk (d : Decoder) : Prop where
  fits : d.packetIndex ≤ d.cap
  index : d.packetIndex = min d.totalLength d.cap
  blkWf : d.blk.wf = true
  pktWf : d.pkt.wf = true
  blkRange : ∀ e ∈ d.blk, 1 ≤ e.1 ∧ e.1 ≤ 254
  pktRange : ∀ e ∈ d.pkt, e.1 < d.cap

theorem Decoder.inv_iff (d : Decoder) : d.Inv ↔
    d.cursorsInRange ∧ d.BuffersOk ∧ ∀ i, d.blockStart ≤ i → i < d.blockIndex → d.blk.read i ≠ 0 := by
  constructor
  · rintro ⟨cursors, fits, index, nonzero, blkWf, pktWf, blkRange, pktRange⟩
    exact ⟨cursors, ⟨fits, index, blkWf, pktWf, blkRange, pktRange⟩, nonzero⟩
  · rintro ⟨cursors, ⟨fits, index, blkWf, pktWf, blkRange, pktRange⟩, nonzero⟩
    exact ⟨cursors, fits, index, nonzero, blkWf, pktWf, blkRange, pktRange⟩

section
variable {d : Decoder}

/-- A byte written to `blk` at an index of R51. -/
theorem Decoder.BuffersOk.write_blk (ok : d.BuffersOk) (v : Byte) (index : Nat) (positive : 1 ≤ d.blockIndex)
    (atMost : d.blockIndex ≤ 254) :
    { d with blk := d.blk.write d.blockIndex v, blockIndex := index }.BuffersOk := by
  obtain ⟨fits, count, blkWf, pktWf, blkRange, pktRange⟩ := ok
  refine ⟨fits, count, Memory.wf_write _ _ _ blkWf, pktWf, fun e mem => ?_, pktRange⟩
  rcases Memory.mem_write _ _ _ _ mem with rfl | mem
  · exact ⟨positive, atMost⟩
  · exact blkRange e mem

theorem Decoder.BuffersOk.flush (ok : d.BuffersOk) : d.flush.1.BuffersOk := by
  obtain ⟨fits, index, blkWf, pktWf, blkRange, pktRange⟩ := ok
  have fitting := d.fitting_eq
  refine ⟨?_, ?_, by rwa [d.flush_blk], ?_, by rwa [d.flush_blk], fun e mem => ?_⟩
  · rw [d.flush_packetIndex, d.flush_cap]; omega
  · rw [d.flush_packetIndex, d.flush_totalLength, d.flush_cap]; omega
  · rw [d.flush_pkt]; exact Memory.wf_copy _ _ _ _ _ pktWf
  · rw [d.flush_pkt] at mem
    rw [d.flush_cap]
    rcases Memory.mem_copy _ _ _ _ _ _ mem with inRange | mem
    · omega
    · exact pktRange e mem

/-- After a reset of the cursors nothing is pending, so only the buffers matter (R35). -/
theorem Decoder.BuffersOk.inv_resetCursors (ok : d.BuffersOk) : d.resetCursors.Inv := by
  obtain ⟨_, _, blkWf, pktWf, blkRange, pktRange⟩ := ok
  exact (Decoder.inv_iff _).2 ⟨.inl ⟨rfl, rfl, rfl⟩,
    ⟨Nat.zero_le _, (Nat.zero_min _).symm, blkWf, pktWf, blkRange, pktRange⟩,
    fun i from255 below255 => absurd (Nat.lt_of_le_of_lt from255 below255) (lt_irrefl _)⟩

/-- A block just begun has nothing pending either (R136). -/
theorem Decoder.BuffersOk.inv_beginBlock (ok : d.BuffersOk) (b : Byte) (nonzero : b ≠ 0) : (d.beginBlock b).Inv := by
  obtain ⟨fits, index, blkWf, pktWf, blkRange, pktRange⟩ := ok
  have positive : 1 ≤ b.toNat := Nat.one_le_iff_ne_zero.2 fun zero => nonzero (BitVec.eq_of_toNat_eq zero)
  have atMost : b.toNat ≤ 255 := Nat.le_of_lt_succ b.isLt
  exact (Decoder.inv_iff _).2 ⟨.inr ⟨rfl, le_rfl, positive, atMost⟩,
    ⟨fits, index, blkWf, pktWf, blkRange, pktRange⟩,
    fun i from1 below1 => absurd (Nat.lt_of_le_of_lt from1 below1) (lt_irrefl _)⟩

/-- The implied zero is put only after a block that was not full, so inside the range of R51 (R134). -/
theorem Decoder.Inv.implicitZero_buffersOk (inv : d.Inv) (atControl : ¬ d.blockIndex < d.blockLength) :
    d.implicitZero.BuffersOk := by
  obtain ⟨cursors, ok, -⟩ := d.inv_iff.1 inv
  rcases d.implicitZero_cases with ⟨_, same⟩ | ⟨short, zero⟩
  · rwa [same]
  · rw [zero]
    have range : 1 ≤ d.blockIndex ∧ d.blockIndex ≤ 254 := by
      rcases cursors with ⟨_, _, full⟩ | ⟨_, _, _, _⟩
      · exact absurd full short
      · omega
    exact ok.write_blk 0 _ range.1 range.2

theorem Decoder.Inv.storeLiteral (inv : d.Inv) (b : Byte) (inBlock : d.blockIndex < d.blockLength) (nonzero : b ≠ 0) :
    (d.storeLiteral b).Inv := by
  obtain ⟨cursors, ok, pending⟩ := d.inv_iff.1 inv
  obtain ⟨start, positive, le, atMost⟩ : d.blockStart = 1 ∧ 1 ≤ d.blockIndex ∧ d.blockIndex ≤ d.blockLength ∧
      d.blockLength ≤ 255 := by
    rcases cursors with ⟨_, index, length⟩ | inside
    · omega
    · exact inside
  refine (Decoder.inv_iff _).2 ⟨.inr ⟨start, Nat.le_succ_of_le positive, inBlock, atMost⟩,
    ok.write_blk b _ positive (by omega), fun i from1 below => ?_⟩
  rw [Decoder.storeLiteral_blk, Memory.read_write]
  split
  · exact nonzero
  next other => exact pending i from1 (lt_of_le_of_ne (Nat.le_of_lt_succ below) other)

theorem Decoder.Inv.resetCursors (inv : d.Inv) : d.resetCursors.Inv := by
  obtain ⟨-, ok, -⟩ := d.inv_iff.1 inv
  exact ok.inv_resetCursors

/-- I1 to I4 of R24 are kept by every byte, one case of R131 after another. -/
theorem Decoder.Inv.byte (inv : d.Inv) (b : Byte) : (d.byte b).1.Inv := by
  obtain ⟨-, ok, -⟩ := d.inv_iff.1 inv
  rcases d.byte_cases b with ⟨_, _, byte⟩ | ⟨inBlock, nonzero, byte⟩ | ⟨_, _, byte⟩ | ⟨atControl, nonzero, byte⟩ <;> rw [byte]
  · exact inv.resetCursors
  · exact inv.storeLiteral b inBlock nonzero
  · rw [d.delimiter_fst]; exact ok.flush.inv_resetCursors
  · exact (inv.implicitZero_buffersOk atControl).flush.inv_beginBlock b nonzero

theorem Decoder.inv_fresh (cap : Nat) : (Decoder.fresh cap).Inv :=
  Decoder.BuffersOk.inv_resetCursors ⟨Nat.zero_le _, (Nat.zero_min _).symm, rfl, rfl, nofun, nofun⟩

end

/-! ## Encoders (R26) -/

section
variable {e : Encoder}

/-- A write to `buf` at an index of R51. -/
theorem Encoder.Inv.write_range (inv : e.Inv) (i : Nat) (v : Byte) (atMost : i ≤ 254) :
    (e.buf.write i v).wf = true ∧ ∀ c ∈ e.buf.write i v, c.1 ≤ 254 := by
  obtain ⟨-, -, wf, range⟩ := inv
  refine ⟨Memory.wf_write _ _ _ wf, fun c mem => ?_⟩
  rcases Memory.mem_write _ _ _ _ mem with rfl | mem
  · exact atMost
  · exact range c mem

theorem Encoder.Inv.startBlock (inv : e.Inv) : e.startBlock.Inv := by
  obtain ⟨index, nonzero, wf, range⟩ := inv
  refine ⟨?_, ?_, by rwa [Encoder.startBlock_buf], by rwa [Encoder.startBlock_buf]⟩ <;> rw [Encoder.startBlock_index]
  · split <;> omega
  · rw [Encoder.startBlock_buf]
    split
    · intro i; omega
    · exact nonzero

theorem Encoder.Inv.flushBlock (inv : e.Inv) : e.flushBlock.1.Inv := by
  obtain ⟨wf, range⟩ := inv.write_range 0 (lengthByte e.index) (Nat.zero_le _)
  exact ⟨Nat.le_of_ble_eq_true rfl, fun i from1 below1 => absurd (Nat.lt_of_le_of_lt from1 below1) (lt_irrefl _),
    wf, range⟩

/-- A non-zero byte stored in a block that is not full yet (R161). -/
theorem Encoder.Inv.append (inv : e.Inv) (b : Byte) (nonzero : b ≠ 0) (room : e.index ≤ 253) : (e.append b).Inv := by
  obtain ⟨wf, range⟩ := inv.write_range e.index b (by omega)
  obtain ⟨_, stored, -, -⟩ := inv
  refine ⟨Nat.succ_le_succ room, fun i from1 below => ?_, wf, range⟩
  rw [Encoder.append_buf, Memory.read_write]
  split
  · exact nonzero
  next other => exact stored i from1 (lt_of_le_of_ne (Nat.le_of_lt_succ below) other)

/-- The 254th byte closes its block: the flush leaves nothing of the index beyond the range (R161). -/
theorem Encoder.Inv.append_flushBlock (inv : e.Inv) (b : Byte) (full : e.index = 254) :
    (e.append b).flushBlock.1.Inv := by
  obtain ⟨wf, range⟩ := inv.write_range e.index b full.le
  refine ⟨Nat.le_of_ble_eq_true rfl, fun i from1 below1 => absurd (Nat.lt_of_le_of_lt from1 below1) (lt_irrefl _),
    Memory.wf_write _ _ _ wf, fun c mem => ?_⟩
  rcases Memory.mem_write _ _ _ _ mem with rfl | mem
  · exact Nat.zero_le _
  · exact range c mem

theorem Encoder.Inv.data (inv : e.Inv) (b : Byte) : (e.data b).1.Inv := by
  have started := inv.startBlock
  have atMost : e.startBlock.index ≤ 254 := started.1
  rcases e.data_cases b with ⟨_, data⟩ | ⟨_, full, data⟩ | ⟨nonzero, room, data⟩ <;> rw [data]
  · exact started.flushBlock
  · exact started.append_flushBlock b full
  · exact started.append b nonzero (by omega)

theorem Encoder.Inv.resetIndex (inv : e.Inv) : e.resetIndex.Inv := by
  obtain ⟨-, -, wf, range⟩ := inv
  exact ⟨Nat.zero_le _, fun i _ below => absurd below (Nat.not_lt_zero i), wf, range⟩

theorem Encoder.Inv.delimiter (inv : e.Inv) : e.delimiter.1.Inv := by
  rcases e.delimiter_cases with ⟨_, alone⟩ | ⟨_, closed⟩
  · rw [alone]; exact inv.resetIndex
  · rw [closed]
    obtain ⟨wf, range⟩ := inv.write_range 0 (lengthByte e.index) (Nat.zero_le _)
    exact ⟨Nat.zero_le _, fun i _ below => absurd below (Nat.not_lt_zero i), wf, range⟩

theorem Encoder.Inv.feed (inv : e.Inv) (s : List Byte) : (e.feed s).1.Inv := by
  induction s generalizing e with
  | nil => exact inv
  | cons b s ih => exact ih (inv.data b)

theorem Encoder.inv_fresh : Encoder.fresh.Inv :=
  ⟨Nat.zero_le _, fun i _ below => absurd below (Nat.not_lt_zero i), rfl, nofun⟩

theorem Encoder.data_index_pos (e : Encoder) (b : Byte) : 0 < (e.data b).1.index := by
  rcases e.data_payload_cases b with ⟨_, _, index⟩ | ⟨_, _, _, index⟩ | ⟨_, _, _, _, index⟩ <;> omega

end

/-! ## Instances of any kind -/

/-- The invariant of an instance: that of its decoder or encoder; any CRC register is possible (R21, R22). -/
def UnitView.Inv (v : UnitView) : Prop :=
  match v with
  | .crc16 _ | .crc32 _ => True
  | .cobsd u => u.dec.Inv
  | .cobse u => u.enc.Inv
  | .ckd u => u.dec.Inv
  | .cke u => u.Inv

/-- A CRC unit's invariant holds of every register. -/
theorem UnitView.inv_of_crc (v : UnitView) (crc : v.kind = .crc16 ∨ v.kind = .crc32) : v.Inv := by
  cases v with
  | crc16 | crc32 => trivial
  | cobsd | cobse | ckd | cke => rcases crc with crc | crc <;> cases crc

/-- R38: the checked encoder's reset state. -/
theorem CkeUnit.inv_of_atReset (u : CkeUnit) (enc : u.enc.Inv) (reset : u.atReset) : u.Inv :=
  ⟨enc, fun _ => reset, fun counted => absurd counted (by rw [reset.2.2]; exact lt_irrefl 0)⟩

theorem CkeUnit.Inv.data {u : CkeUnit} (inv : u.Inv) (b : Byte) : (u.data b).1.Inv :=
  ⟨inv.1.data b, fun none => absurd none (Nat.succ_ne_zero _), fun _ => Encoder.data_index_pos _ _⟩

theorem CkeUnit.Inv.delimiter {u : CkeUnit} (inv : u.Inv) : u.delimiter.1.Inv :=
  CkeUnit.inv_of_atReset _ (inv.1.feed _).delimiter u.atReset_delimiter

section
variable {v : UnitView} (inv : v.Inv)
include inv

theorem UnitView.Inv.emit (evs : List Event) : (v.emit evs).Inv := by
  cases v <;> exact inv

theorem UnitView.Inv.hardwareReset : v.hardwareReset.Inv := by
  cases v with
  | crc16 | crc32 => trivial
  | cobsd | ckd => exact Decoder.Inv.resetCursors inv
  | cobse => exact Encoder.Inv.resetIndex inv
  | cke u => exact CkeUnit.inv_of_atReset _ inv.1.resetIndex ⟨rfl, rfl, rfl⟩

/-- Every command keeps the invariant of its instance. -/
theorem UnitView.Inv.effect (i : Instr) : (v.effect i).1.Inv := by
  cases v with
  | crc16 u => exact UnitView.inv_of_crc _ (.inl (UnitView.effect_kind i _))
  | crc32 u => exact UnitView.inv_of_crc _ (.inr (UnitView.effect_kind i _))
  | cobsd u =>
    cases i
    case cobsdRst => exact Decoder.Inv.resetCursors inv
    case cobsdByte b => exact Decoder.Inv.byte inv b
    all_goals exact inv
  | cobse u =>
    cases i
    case cobseData b => exact Encoder.Inv.data inv b
    case cobseDlm => exact Encoder.Inv.delimiter inv
    all_goals exact inv
  | ckd u =>
    cases i
    case ckdRst => exact Decoder.Inv.resetCursors inv
    case ckdByte b => exact Decoder.Inv.byte inv b
    all_goals exact inv
  | cke u =>
    cases i
    case ckeData b => exact CkeUnit.Inv.data inv b
    case ckeDlm => exact CkeUnit.Inv.delimiter inv
    all_goals exact inv

end

/-! ## The whole machine -/

/-- Every bank in canonical form (log 3). -/
structure State.Canonical (s : State) : Prop where
  crc16 : Sparse.canonical Crc16Unit.reset s.crc16 = true
  crc32 : Sparse.canonical Crc32Unit.reset s.crc32 = true
  cobsd : Sparse.canonical CobsdUnit.reset s.cobsd = true
  cobse : Sparse.canonical CobseUnit.reset s.cobse = true
  ckd : Sparse.canonical CkdUnit.reset s.ckd = true
  cke : Sparse.canonical CkeUnit.reset s.cke = true

theorem State.inv_iff (s : State) : s.Inv ↔ s.Canonical ∧ ∀ k n, (s.view k n).Inv := by
  constructor
  · rintro ⟨⟨crc16, crc32, cobsd, cobse, ckd, cke⟩, cobsdInv, cobseInv, ckdInv, ckeInv⟩
    refine ⟨⟨crc16, crc32, cobsd, cobse, ckd, cke⟩, fun k n => ?_⟩
    cases k with
    | crc16 | crc32 => trivial
    | cobsd => exact cobsdInv n
    | cobse => exact cobseInv n
    | ckd => exact ckdInv n
    | cke => exact ckeInv n
  · rintro ⟨⟨crc16, crc32, cobsd, cobse, ckd, cke⟩, views⟩
    exact ⟨⟨crc16, crc32, cobsd, cobse, ckd, cke⟩, views .cobsd, views .cobse, views .ckd, views .cke⟩

section
variable {s : State}

theorem State.Canonical.putView (canonical : s.Canonical) (n : Nat) (v : UnitView) : (s.putView n v).Canonical := by
  obtain ⟨crc16, crc32, cobsd, cobse, ckd, cke⟩ := canonical
  cases v with
  | crc16 u => exact ⟨Sparse.canonical_set _ _ _ _ crc16, crc32, cobsd, cobse, ckd, cke⟩
  | crc32 u => exact ⟨crc16, Sparse.canonical_set _ _ _ _ crc32, cobsd, cobse, ckd, cke⟩
  | cobsd u => exact ⟨crc16, crc32, Sparse.canonical_set _ _ _ _ cobsd, cobse, ckd, cke⟩
  | cobse u => exact ⟨crc16, crc32, cobsd, Sparse.canonical_set _ _ _ _ cobse, ckd, cke⟩
  | ckd u => exact ⟨crc16, crc32, cobsd, cobse, Sparse.canonical_set _ _ _ _ ckd, cke⟩
  | cke u => exact ⟨crc16, crc32, cobsd, cobse, ckd, Sparse.canonical_set _ _ _ _ cke⟩

theorem State.Canonical.hardwareReset (canonical : s.Canonical) : s.hardwareReset.Canonical := by
  obtain ⟨crc16, crc32, cobsd, cobse, ckd, cke⟩ := canonical
  exact ⟨Sparse.canonical_map _ _ _ crc16, Sparse.canonical_map _ _ _ crc32, Sparse.canonical_map _ _ _ cobsd,
    Sparse.canonical_map _ _ _ cobse, Sparse.canonical_map _ _ _ ckd, Sparse.canonical_map _ _ _ cke⟩

/-- The write of an instance that meets its invariant. -/
theorem State.Inv.putView (inv : s.Inv) (n : Nat) (v : UnitView) (written : v.Inv) : (s.putView n v).Inv := by
  obtain ⟨canonical, views⟩ := s.inv_iff.1 inv
  refine (State.inv_iff _).2 ⟨canonical.putView n v, fun k m => ?_⟩
  by_cases here : (k, m) = (v.kind, n)
  · cases here
    rwa [State.view_putView_same]
  · rw [s.view_putView_other n v k m here]
    exact views k m

theorem State.Inv.viewAfter (inv : s.Inv) (i : Instr) : (s.viewAfter i).Inv := by
  obtain ⟨-, views⟩ := s.inv_iff.1 inv
  exact ((views i.unit s.port).effect i).emit _

theorem State.Inv.hardwareReset (inv : s.Inv) : s.hardwareReset.Inv := by
  obtain ⟨canonical, views⟩ := s.inv_iff.1 inv
  refine (State.inv_iff _).2 ⟨canonical.hardwareReset, fun k n => ?_⟩
  rw [State.view_hardwareReset]
  exact (views k n).hardwareReset

end

/-- Settles O52: the idle step, the hardware reset, a command's effect and a created decoder (`step_next_cases`). -/
theorem stepKeepsTheInvariants : Obligations.StepKeepsTheInvariants := by
  intro s t inv steps
  rcases step_next_cases s t steps with rfl | ⟨rest, _, rfl⟩ | ⟨i, n, rest, rfl⟩ | ⟨n, rest, cap, rfl⟩ | ⟨n, rest, cap, fwd, rfl⟩
  · exact inv
  · exact State.Inv.hardwareReset (s := s.advance rest) inv
  · exact State.Inv.putView (s := s.present n rest) inv n _ (State.Inv.viewAfter (s := s.present n rest) inv i)
  · exact State.Inv.putView (s := s.advance rest) inv n _ (Decoder.inv_fresh cap)
  · exact State.Inv.putView (s := s.advance rest) inv n _ (Decoder.inv_fresh cap)

/-- Settles O53: empty banks are canonical, and every instance is fresh. -/
theorem resetMeetsTheInvariants : Obligations.ResetMeetsTheInvariants :=
  ⟨⟨rfl, rfl, rfl, rfl, rfl, rfl⟩, fun _ => Decoder.inv_fresh _, fun _ => Encoder.inv_fresh, fun _ => Decoder.inv_fresh _,
    fun _ => CkeUnit.inv_of_atReset _ Encoder.inv_fresh ⟨rfl, rfl, rfl⟩⟩

end Sys2Proof.Machine

/-! PROOF. Bytes that no command reads (20_memory.md R58): agreement up to such bytes is kept by every operation of a decoder and an
encoder, with equal events, hence by every command and every step. -/

namespace Sys2Proof.Machine

/-! ## Decoders -/

/-- Agreement of what the packet end reads: the capacity, the counters and the packet bytes. -/
structure Decoder.AgreePacket (d e : Decoder) : Prop where
  cap : d.cap = e.cap
  packetIndex : d.packetIndex = e.packetIndex
  totalLength : d.totalLength = e.totalLength
  pkt : ∀ i, i < d.packetIndex → d.pkt.read i = e.pkt.read i

section
variable {d e : Decoder}

/-- R135: the flush copies pending bytes, in which the two agree, behind packet bytes, in which they agree. -/
theorem Decoder.agree.flush (agree : d.agree e) : d.flush.1.AgreePacket e.flush.1 ∧ d.flush.2 = e.flush.2 := by
  obtain ⟨cap, start, index, -, packetIndex, total, blk, pkt⟩ := agree
  have pending : d.pending = e.pending := by rw [Decoder.pending, Decoder.pending, start, index]
  have fitting : d.fitting = e.fitting := by rw [Decoder.fitting, Decoder.fitting, pending, cap, packetIndex]
  refine ⟨⟨by rw [d.flush_cap, e.flush_cap, cap], ?_, ?_, fun i below => ?_⟩, ?_⟩
  · rw [d.flush_packetIndex, e.flush_packetIndex, packetIndex, fitting]
  · rw [d.flush_totalLength, e.flush_totalLength, total, pending]
  · rw [d.flush_packetIndex] at below
    rw [d.flush_pkt, e.flush_pkt, Memory.read_copy, Memory.read_copy, ← packetIndex, ← fitting, ← start]
    split
    · have := d.fitting_eq
      have := d.pending_eq
      exact blk _ (Nat.le_add_right _ _) (by omega)
    · exact pkt i (by omega)
  · rw [d.flush_events, e.flush_events, pending, fitting]

theorem Decoder.AgreePacket.deliver (agree : d.AgreePacket e) : d.deliver.2 = e.deliver.2 := by
  obtain ⟨-, packetIndex, total, pkt⟩ := agree
  have packet : d.pkt.slice 0 d.packetIndex = e.pkt.slice 0 e.packetIndex := by
    rw [← packetIndex]
    exact Memory.slice_congr _ _ _ _ fun i _ below => pkt i (by omega)
  rw [d.deliver_events, e.deliver_events, packet, total, packetIndex]

/-- After a reset of the cursors no byte of `blk` and none of `pkt` is delimited. -/
theorem Decoder.AgreePacket.resetCursors (agree : d.AgreePacket e) : d.resetCursors.agree e.resetCursors :=
  ⟨agree.cap, rfl, rfl, rfl, rfl, rfl, fun _ from255 below255 => absurd (Nat.lt_of_le_of_lt from255 below255) (lt_irrefl _),
    fun i below => absurd below (Nat.not_lt_zero i)⟩

theorem Decoder.AgreePacket.beginBlock (agree : d.AgreePacket e) (b : Byte) : (d.beginBlock b).agree (e.beginBlock b) :=
  ⟨agree.cap, rfl, rfl, rfl, agree.packetIndex, agree.totalLength,
    fun _ from1 below1 => absurd (Nat.lt_of_le_of_lt from1 below1) (lt_irrefl _), agree.pkt⟩

theorem Decoder.agree.packet (agree : d.agree e) : d.AgreePacket e := by
  obtain ⟨cap, -, -, -, packetIndex, total, -, pkt⟩ := agree
  exact ⟨cap, packetIndex, total, pkt⟩

/-- A byte put behind the pending ones is equal in both. -/
theorem Decoder.agree.write_blk (agree : d.agree e) (v : Byte) :
    { d with blk := d.blk.write d.blockIndex v, blockIndex := d.blockIndex + 1 }.agree
      { e with blk := e.blk.write e.blockIndex v, blockIndex := e.blockIndex + 1 } := by
  obtain ⟨cap, start, index, length, packetIndex, total, blk, pkt⟩ := agree
  refine ⟨cap, start, congrArg Nat.succ index, length, packetIndex, total, fun i fromStart below => ?_, pkt⟩
  have written : (d.blk.write d.blockIndex v).read i = (e.blk.write e.blockIndex v).read i := by
    rw [Memory.read_write, Memory.read_write, ← index]
    split
    · rfl
    next other => exact blk i fromStart (lt_of_le_of_ne (Nat.le_of_lt_succ below) other)
  exact written

theorem Decoder.agree.implicitZero (agree : d.agree e) : d.implicitZero.agree e.implicitZero := by
  obtain ⟨_, _, _, length, _⟩ := id agree
  rcases d.implicitZero_cases with ⟨full, same⟩ | ⟨short, zero⟩ <;>
    rcases e.implicitZero_cases with ⟨full', same'⟩ | ⟨short', zero'⟩
  · rwa [same, same']
  · exact absurd (length ▸ full) short'
  · exact absurd (length ▸ full') short
  · rw [zero, zero']; exact agree.write_blk 0

/-- Every byte keeps the agreement, with equal events: R131's cases depend on the cursors alone. -/
theorem Decoder.agree.byte (agree : d.agree e) (b : Byte) :
    (d.byte b).1.agree (e.byte b).1 ∧ (d.byte b).2 = (e.byte b).2 := by
  obtain ⟨packet, events⟩ := agree.flush
  obtain ⟨_, _, index, length, _⟩ := id agree
  rcases d.byte_cases b with ⟨inBlock, rfl, byte⟩ | ⟨inBlock, nonzero, byte⟩ | ⟨control, rfl, byte⟩ | ⟨control, nonzero, byte⟩
  · rw [byte, e.byte_zero_of_lt (index ▸ length ▸ inBlock)]
    exact ⟨agree.packet.resetCursors, rfl⟩
  · rw [byte, e.byte_of_lt b (index ▸ length ▸ inBlock) nonzero]
    exact ⟨agree.write_blk b, rfl⟩
  · rw [byte, e.byte_zero_of_not_lt (index ▸ length ▸ control), d.delimiter_fst, e.delimiter_fst]
    refine ⟨packet.resetCursors, ?_⟩
    rw [d.delimiter_events, e.delimiter_events, events, packet.deliver, ← d.flush_totalLength, ← e.flush_totalLength,
      packet.totalLength]
  · rw [byte, e.byte_of_not_lt b (index ▸ length ▸ control) nonzero]
    obtain ⟨packet, events⟩ := agree.implicitZero.flush
    exact ⟨packet.beginBlock b, events⟩

end

theorem Decoder.agree.refl (d : Decoder) : d.agree d := ⟨rfl, rfl, rfl, rfl, rfl, rfl, fun _ _ _ => rfl, fun _ _ => rfl⟩

/-! ## Encoders -/

section
variable {e f : Encoder}

theorem Encoder.agree.payload (agree : e.agree f) : e.payload = f.payload := by
  obtain ⟨index, buf⟩ := agree
  rw [Encoder.payload, Encoder.payload, ← index]
  exact Memory.slice_congr _ _ _ _ fun i from1 below => buf i from1 (by omega)

/-- With equal indices and payloads two encoders agree: the other bytes are stale. -/
theorem Encoder.agree_of_payload (index : e.index = f.index) (payload : e.payload = f.payload) : e.agree f := by
  refine ⟨index, fun i from1 below => ?_⟩
  rw [Encoder.payload, Encoder.payload, ← index, Memory.slice_eq_map, Memory.slice_eq_map] at payload
  have same := (List.map_inj_left.1 payload) (i - 1) (List.mem_range.2 (by omega))
  rwa [Nat.add_sub_cancel' from1] at same

/-- R161's cases depend on the payload alone. -/
theorem Encoder.agree.data (agree : e.agree f) (b : Byte) :
    (e.data b).1.agree (f.data b).1 ∧ (e.data b).2 = (f.data b).2 := by
  have payload := agree.payload
  have flushed (index : (e.data b).1.index = 1) (index' : (f.data b).1.index = 1) : (e.data b).1.agree (f.data b).1 :=
    Encoder.agree_of_payload (index.trans index'.symm)
      ((Encoder.payload_of_index_one _ index).trans (Encoder.payload_of_index_one _ index').symm)
  rcases e.data_payload_cases b with ⟨zero, events, index⟩ | ⟨nonzero, full, events, index⟩ |
    ⟨nonzero, room, events, stored, index⟩
  · rcases f.data_payload_cases b with ⟨_, events', index'⟩ | ⟨nonzero', _⟩ | ⟨nonzero', _⟩
    · exact ⟨flushed index index', by rw [events, events', payload]⟩
    · exact absurd zero nonzero'
    · exact absurd zero nonzero'
  · rcases f.data_payload_cases b with ⟨zero', _⟩ | ⟨_, _, events', index'⟩ | ⟨_, room', _⟩
    · exact absurd zero' nonzero
    · exact ⟨flushed index index', by rw [events, events', payload]⟩
    · exact absurd (payload ▸ full) room'
  · rcases f.data_payload_cases b with ⟨zero', _⟩ | ⟨_, full', _⟩ | ⟨_, _, events', stored', index'⟩
    · exact absurd zero' nonzero
    · exact absurd (payload ▸ full') room
    · refine ⟨Encoder.agree_of_payload ?_ ?_, by rw [events, events']⟩
      · rw [index, index', payload]
      · rw [stored, stored', payload]

theorem Encoder.agree.delimiter (agree : e.agree f) :
    e.delimiter.1.agree f.delimiter.1 ∧ e.delimiter.2 = f.delimiter.2 := by
  obtain ⟨index, -⟩ := id agree
  refine ⟨⟨by rw [e.delimiter_index, f.delimiter_index], fun i _ below => ?_⟩, ?_⟩
  · rw [e.delimiter_index] at below
    exact absurd below (Nat.not_lt_zero i)
  · rcases eq_or_ne e.index 0 with none | pending
    · rw [e.delimiter_events_of_none none, f.delimiter_events_of_none (index ▸ none)]
    · rw [e.delimiter_events pending, f.delimiter_events (index ▸ pending), agree.payload]

theorem Encoder.agree.feed (agree : e.agree f) (s : List Byte) :
    (e.feed s).1.agree (f.feed s).1 ∧ (e.feed s).2 = (f.feed s).2 := by
  induction s generalizing e f with
  | nil => exact ⟨agree, rfl⟩
  | cons b s ih =>
    obtain ⟨next, events⟩ := agree.data b
    obtain ⟨last, rest⟩ := ih next
    exact ⟨last, by rw [Encoder.feed_cons, Encoder.feed_cons, events, rest]⟩

end

/-! ## Instances of any kind -/

/-- Two instances of one kind that differ at most in stale bytes, as `State.agree` has it. -/
inductive UnitView.Agree : UnitView → UnitView → Prop where
  | crc16 (u : Crc16Unit) : Agree (.crc16 u) (.crc16 u)
  | crc32 (u : Crc32Unit) : Agree (.crc32 u) (.crc32 u)
  | cobsd {u u' : CobsdUnit} (dec : u.dec.agree u'.dec) (out : u.out = u'.out) : Agree (.cobsd u) (.cobsd u')
  | cobse {u u' : CobseUnit} (enc : u.enc.agree u'.enc) (out : u.out = u'.out) : Agree (.cobse u) (.cobse u')
  | ckd {u u' : CkdUnit} (dec : u.dec.agree u'.dec) (forward : u.forward = u'.forward) (out : u.out = u'.out) :
      Agree (.ckd u) (.ckd u')
  | cke {u u' : CkeUnit} (enc : u.enc.agree u'.enc) (crc : u.crc = u'.crc) (count : u.count = u'.count)
      (out : u.out = u'.out) : Agree (.cke u) (.cke u')

section
variable {v w : UnitView} (agree : v.Agree w)
include agree

theorem UnitView.Agree.kind : v.kind = w.kind := by
  cases agree <;> rfl

theorem UnitView.Agree.out_eq : v.out = w.out := by
  cases agree with
  | crc16 | crc32 => rfl
  | cobsd _ out | cobse _ out | ckd _ _ out | cke _ _ _ out => exact out

theorem UnitView.Agree.emit (evs : List Event) : (v.emit evs).Agree (w.emit evs) := by
  have appended (xs ys : List Event) (same : xs = ys) : xs ++ evs = ys ++ evs := by rw [same]
  cases agree with
  | crc16 u => exact .crc16 _
  | crc32 u => exact .crc32 _
  | cobsd dec out => exact .cobsd dec (appended _ _ out)
  | cobse enc out => exact .cobse enc (appended _ _ out)
  | ckd dec forward out => exact .ckd dec forward (appended _ _ out)
  | cke enc crc count out => exact .cke enc crc count (appended _ _ out)

theorem UnitView.Agree.hardwareReset : v.hardwareReset.Agree w.hardwareReset := by
  cases agree with
  | crc16 u => exact .crc16 _
  | crc32 u => exact .crc32 _
  | cobsd dec out => exact .cobsd dec.packet.resetCursors out
  | cobse enc out => exact .cobse ⟨rfl, fun i _ below => absurd below (Nat.not_lt_zero i)⟩ out
  | ckd dec forward out => exact .ckd dec.packet.resetCursors forward out
  | cke enc crc count out => exact .cke ⟨rfl, fun i _ below => absurd below (Nat.not_lt_zero i)⟩ rfl rfl out

/-- Every command keeps the agreement, with equal events. -/
theorem UnitView.Agree.effect (i : Instr) :
    (v.effect i).1.Agree (w.effect i).1 ∧ (v.effect i).2 = (w.effect i).2 := by
  cases agree with
  | crc16 u =>
    obtain ⟨u', same⟩ : ∃ u', ((UnitView.crc16 u).effect i).1 = .crc16 u' := by cases i <;> simp [UnitView.effect]
    rw [same]
    exact ⟨.crc16 _, rfl⟩
  | crc32 u =>
    obtain ⟨u', same⟩ : ∃ u', ((UnitView.crc32 u).effect i).1 = .crc32 u' := by cases i <;> simp [UnitView.effect]
    rw [same]
    exact ⟨.crc32 _, rfl⟩
  | cobsd dec out =>
    cases i
    case cobsdRst => exact ⟨.cobsd dec.packet.resetCursors out, rfl⟩
    case cobsdByte b => exact ⟨.cobsd (dec.byte b).1 out, (dec.byte b).2⟩
    all_goals exact ⟨.cobsd dec out, rfl⟩
  | cobse enc out =>
    cases i
    case cobseData b => exact ⟨.cobse (enc.data b).1 out, (enc.data b).2⟩
    case cobseDlm => exact ⟨.cobse enc.delimiter.1 out, enc.delimiter.2⟩
    all_goals exact ⟨.cobse enc out, rfl⟩
  | ckd dec forward out =>
    cases i
    case ckdRst => exact ⟨.ckd dec.packet.resetCursors forward out, rfl⟩
    case ckdByte b => exact ⟨.ckd (dec.byte b).1 forward out, congrArg₂ ckdEvents forward (dec.byte b).2⟩
    all_goals exact ⟨.ckd dec forward out, rfl⟩
  | @cke u u' enc crc count out =>
    cases i
    case ckeData b =>
      exact ⟨.cke (enc.data b).1 (congrArg (crcStep Config.crc16Poly · b) crc) (congrArg Nat.succ count) out, (enc.data b).2⟩
    case ckeDlm =>
      have suffix : u'.suffix = u.suffix := by rw [CkeUnit.suffix, CkeUnit.suffix, crc, count]
      obtain ⟨fed, fedEvents⟩ := enc.feed u.suffix
      obtain ⟨closed, closedEvents⟩ := fed.delimiter
      simp only [UnitView.effect, CkeUnit.delimiter, suffix]
      exact ⟨.cke closed rfl rfl out, congrArg₂ (· ++ ·) fedEvents closedEvents⟩
    all_goals exact ⟨.cke enc crc count out, rfl⟩

end

/-! ## The whole machine -/

theorem UnitView.Agree.of_crc16 {u u' : Crc16Unit} (agree : (UnitView.crc16 u).Agree (.crc16 u')) : u = u' := by
  cases agree; rfl

theorem UnitView.Agree.of_crc32 {u u' : Crc32Unit} (agree : (UnitView.crc32 u).Agree (.crc32 u')) : u = u' := by
  cases agree; rfl

theorem UnitView.Agree.of_cobsd {u u' : CobsdUnit} (agree : (UnitView.cobsd u).Agree (.cobsd u')) :
    u.dec.agree u'.dec ∧ u.out = u'.out := by
  cases agree with
  | cobsd dec out => exact ⟨dec, out⟩

theorem UnitView.Agree.of_cobse {u u' : CobseUnit} (agree : (UnitView.cobse u).Agree (.cobse u')) :
    u.enc.agree u'.enc ∧ u.out = u'.out := by
  cases agree with
  | cobse enc out => exact ⟨enc, out⟩

theorem UnitView.Agree.of_ckd {u u' : CkdUnit} (agree : (UnitView.ckd u).Agree (.ckd u')) :
    u.dec.agree u'.dec ∧ u.forward = u'.forward ∧ u.out = u'.out := by
  cases agree with
  | ckd dec forward out => exact ⟨dec, forward, out⟩

theorem UnitView.Agree.of_cke {u u' : CkeUnit} (agree : (UnitView.cke u).Agree (.cke u')) :
    u.enc.agree u'.enc ∧ u.crc = u'.crc ∧ u.count = u'.count ∧ u.out = u'.out := by
  cases agree with
  | cke enc crc count out => exact ⟨enc, crc, count, out⟩

/-- The relation of the statement, instance by instance. -/
theorem State.agree_iff (s t : State) :
    s.agree t ↔ s.port = t.port ∧ s.stream = t.stream ∧ ∀ k n, (s.view k n).Agree (t.view k n) := by
  constructor
  · rintro ⟨port, stream, crc16, crc32, cobsd, cobse, ckd, cke⟩
    refine ⟨port, stream, fun k n => ?_⟩
    cases k with
    | crc16 => rw [State.view, State.view, crc16 n]; exact .crc16 _
    | crc32 => rw [State.view, State.view, crc32 n]; exact .crc32 _
    | cobsd => exact .cobsd (cobsd n).1 (cobsd n).2
    | cobse => exact .cobse (cobse n).1 (cobse n).2
    | ckd => obtain ⟨dec, forward, out⟩ := ckd n; exact .ckd dec forward out
    | cke => obtain ⟨enc, crc, count, out⟩ := cke n; exact .cke enc crc count out
  · rintro ⟨port, stream, views⟩
    exact ⟨port, stream, fun n => (views .crc16 n).of_crc16, fun n => (views .crc32 n).of_crc32,
      fun n => (views .cobsd n).of_cobsd, fun n => (views .cobse n).of_cobse, fun n => (views .ckd n).of_ckd,
      fun n => (views .cke n).of_cke⟩

section
variable {s t : State}

theorem State.agree.putView (agree : s.agree t) (n : Nat) (v w : UnitView) (written : v.Agree w) :
    (s.putView n v).agree (t.putView n w) := by
  obtain ⟨port, stream, views⟩ := (State.agree_iff s t).1 agree
  refine (State.agree_iff _ _).2 ⟨by rwa [s.putView_port, t.putView_port], by rwa [s.putView_stream, t.putView_stream],
    fun k m => ?_⟩
  by_cases here : (k, m) = (v.kind, n)
  · cases here
    rw [State.view_putView_same, written.kind, State.view_putView_same]
    exact written
  · rw [s.view_putView_other n v k m here, t.view_putView_other n w k m (written.kind ▸ here)]
    exact views k m

theorem State.agree.viewAfter (agree : s.agree t) (i : Instr) : (s.viewAfter i).Agree (t.viewAfter i) := by
  obtain ⟨port, -, views⟩ := (State.agree_iff s t).1 agree
  obtain ⟨unit, events⟩ := (views i.unit s.port).effect i
  rw [State.viewAfter, State.viewAfter, ← port, ← events]
  exact unit.emit _

theorem State.agree.present (agree : s.agree t) (n : Nat) (rest : List HostInput) :
    (s.present n rest).agree (t.present n rest) := by
  obtain ⟨-, -, instances⟩ := agree
  exact ⟨rfl, rfl, instances⟩

theorem State.agree.advance (agree : s.agree t) (rest : List HostInput) : (s.advance rest).agree (t.advance rest) := by
  obtain ⟨port, -, instances⟩ := agree
  exact ⟨port, rfl, instances⟩

theorem State.agree.hardwareReset (agree : s.agree t) : s.hardwareReset.agree t.hardwareReset := by
  obtain ⟨port, stream, views⟩ := (State.agree_iff s t).1 agree
  refine (State.agree_iff _ _).2 ⟨port, stream, fun k n => ?_⟩
  rw [State.view_hardwareReset, State.view_hardwareReset]
  exact (views k n).hardwareReset

theorem State.agree.outOf (agree : s.agree t) (k : UnitKind) (n : Nat) : s.outOf k n = t.outOf k n := by
  obtain ⟨-, -, views⟩ := (State.agree_iff s t).1 agree
  rw [State.outOf_eq, State.outOf_eq, (views k n).out_eq]

theorem State.agree.createCobsd (agree : s.agree t) (n cap : Nat) : (s.createCobsd n cap).agree (t.createCobsd n cap) :=
  agree.putView n (.cobsd ⟨Decoder.fresh cap, s.outOf .cobsd n⟩) (.cobsd ⟨Decoder.fresh cap, t.outOf .cobsd n⟩)
    (.cobsd (Decoder.agree.refl _) (agree.outOf .cobsd n))

theorem State.agree.createCkd (agree : s.agree t) (n cap : Nat) (fwd : Bool) :
    (s.createCkd n cap fwd).agree (t.createCkd n cap fwd) :=
  agree.putView n (.ckd ⟨Decoder.fresh cap, fwd, s.outOf .ckd n⟩) (.ckd ⟨Decoder.fresh cap, fwd, t.outOf .ckd n⟩)
    (.ckd (Decoder.agree.refl _) rfl (agree.outOf .ckd n))

end

/-- Settles O54: both machines find the same input, and each kind of step keeps the agreement. -/
theorem staleBytesReachNoEvent : Obligations.StaleBytesReachNoEvent := by
  intro s s' t agree steps
  obtain ⟨-, stream, -⟩ := id agree
  rcases step_cases s with ⟨nothing, idle⟩ | ⟨n, w, rest, presented, ⟨i, decodes, command⟩ | ⟨why, _, refused⟩⟩ |
    ⟨rest, presented, reset⟩ | ⟨n, cap, rest, presented, cobsd⟩ | ⟨n, cap, fwd, rest, presented, ckd⟩
  · cases idle.symm.trans steps
    exact ⟨s', idleStepChangesNothing s' (stream ▸ nothing), agree⟩
  · rw [command, exec_eq_putView] at steps
    cases steps
    have sameCommand := stepRunsTheDecodedCommand s' n w rest i (stream ▸ presented) decodes
    exact ⟨_, sameCommand.trans (exec_eq_putView i (s'.present n rest)),
      (agree.present n rest).putView n _ _ ((agree.present n rest).viewAfter i)⟩
  · rw [refused] at steps
    cases steps
  · cases reset.symm.trans steps
    exact ⟨_, step_hardwareReset s' rest (stream ▸ presented), (agree.advance rest).hardwareReset⟩
  · cases cobsd.symm.trans steps
    exact ⟨_, step_createCobsd s' n cap rest (stream ▸ presented), (agree.advance rest).createCobsd n cap⟩
  · cases ckd.symm.trans steps
    exact ⟨_, step_createCkd s' n cap fwd rest (stream ▸ presented), (agree.advance rest).createCkd n cap fwd⟩

end Sys2Proof.Machine
